-- ==== Sys2Proof/Word.lean ====
section
/-! DEFINITION. The byte and the byte string, the two units of data the block handles (00_scope.md R8). -/

namespace Sys2Proof

/-- An 8-bit value, the element of every byte string (R8). -/
abbrev Byte := BitVec 8

/-- A byte string: a finite sequence of 8-bit values, index 0 first (R8). -/
abbrev Bytes := List Byte

end Sys2Proof
end

