-- ==== Sys2Proof/Config.lean ====
section
/-! DEFINITION. The implementation parameters of 00_scope.md R5, each under the spec's name, and the model's one free
value. -/

namespace Sys2Proof.Config

/-- `N_BANK`: the number of bank register sets (R5). -/
@[simp] abbrev bankSets : Nat := 2

/-- `N0`: the pins of bank 0 (R5). -/
@[simp] abbrev pins0 : Nat := 28

/-- `N1`: the pins of bank 1 (R5). -/
@[simp] abbrev pins1 : Nat := 18

/-- `G_MAX`: the highest global GPIO index (R5). -/
@[simp] abbrev globalMax : Nat := 45

/-- `RESERVED_IDX`: the global indices a bank definition may never configure (R5). -/
@[simp] abbrev reservedIndices : List Nat := [0, 1]

/-- `MAX_STR`: the longest vendor or product string, in bytes (R5). -/
@[simp] abbrev maxStr : Nat := 255

/-- `UUID_LEN`: the bytes of the UUID operand (R5). -/
@[simp] abbrev uuidLen : Nat := 16

/-- `MAX_ATOMS`: the most atoms a stream holds (R5). -/
@[simp] abbrev maxAtoms : Nat := 65535

/-- `HDR_LEN`: the bytes of the image header: 12, not 13 (R5; 90_conflicts.md C1). -/
@[simp] abbrev hdrLen : Nat := 12

/-- `ATOM_OVH`: the bytes of an atom besides its payload (R5). -/
@[simp] abbrev atomOvh : Nat := 10

/-- `FORMAT_VERSION` (R5). -/
@[simp] abbrev formatVersion : Byte := 1#8

/-- `SIGNATURE` (R5, R98). -/
@[simp] abbrev signature : BitVec 32 := 0x69502D52#32

/-- `CRC_POLY`, the polynomial as the Glossary writes it (R5). The rightward loop of R180 uses it bit-reversed. -/
@[simp] abbrev crcPoly : BitVec 16 := 0x8005#16

/-- `CRC_INIT` (R5). -/
@[simp] abbrev crcInit : BitVec 16 := 0x0000#16

/-- `LEN_MAX`: the largest value of a 32-bit length field (R5). -/
@[simp] abbrev lenMax : Nat := 4294967295

/-- FREE VALUE (assumption log 3, DESIGN CHOICE; the spec states no value). When several code fields of one BANK.INIT
have no value, R91 and R101 say that ILLEGAL_OPERAND names "the operand" and do not say which of them. This constant,
a function of the operand word, says which; nothing constrains it. -/
opaque illegalCodeChoice : BitVec 32 → Nat

end Sys2Proof.Config
end

