-- ==== Sys2Proof/Machine/Types.lean ====
section
/-! DEFINITION. The named values the host and the block exchange: the enumerated types of 00_scope.md R10, the command
of 30_encoding.md R70, the response of R71 with the error-info records of 60_exceptions.md R271, and the host's inputs. -/

namespace Sys2Proof

/-- The bank selector `b` (R21). -/
inductive BankSel where
  | bank0
  | bank1
deriving DecidableEq, Repr

/-- `N_b`, the number of pins of bank `b` (R27). -/
abbrev BankSel.pinCount : BankSel → Nat
  | .bank0 => Config.pins0
  | .bank1 => Config.pins1

/-- The selector of the other bank register set. -/
def BankSel.other : BankSel → BankSel
  | .bank0 => .bank1
  | .bank1 => .bank0

/-- GpioFunction: the eight functions of a pin (R84), in the document's declaration order, which is not the order of
the codes. -/
inductive GpioFunction where
  | input
  | output
  | alt0
  | alt1
  | alt2
  | alt3
  | alt4
  | alt5
deriving DecidableEq, Repr

/-- PullMode (R85). `none` is also written NoPull. -/
inductive PullMode where
  | default
  | up
  | down
  | none
deriving DecidableEq, Repr

/-- DriveStrength (R86): Default, then 2 mA to 16 mA in steps of 2 mA. -/
inductive DriveStrength where
  | default
  | ma2
  | ma4
  | ma6
  | ma8
  | ma10
  | ma12
  | ma14
  | ma16
deriving DecidableEq, Repr

/-- SlewRate (R87). -/
inductive SlewRate where
  | default
  | rateLimiting
  | noLimit
deriving DecidableEq, Repr

/-- Hysteresis (R88). -/
inductive Hysteresis where
  | default
  | disable
  | enable
deriving DecidableEq, Repr

/-- BackPower (R89): None, 1.3 A, 2 A. -/
inductive BackPower where
  | none
  | amp1_3
  | amp2
deriving DecidableEq, Repr

/-- AtomType (R90). -/
inductive AtomType where
  | vendorInfo
  | gpioBank0Map
  | linuxDtb
  | manufCustomData
  | gpioBank1Map
deriving DecidableEq, Repr

/-- A command (R70): the 40-bit command word `OPC ‖ IMM`, and the DATA strings that travel beside it. -/
structure Command where
  word : BitVec 40
  data : List Bytes
deriving DecidableEq, Repr

/-- The operand an ILLEGAL_OPERAND record names (R81, R82, R91). -/
inductive OperandField where
  | reserved
  | data
  | uuid
  | dr
  | sl
  | hy
  | bp
  | ty
deriving DecidableEq, Repr

/-- The string an OVERSIZE_STRING record names (R187). -/
inductive StringField where
  | vendor
  | product
deriving DecidableEq, Repr

/-- The error statuses of R271, each with its error-info record. -/
inductive Error where
  /-- 0x01: a pin index outside the bank's global span (R142). -/
  | outOfBound (bank : BankSel) (index : BitVec 8)
  /-- 0x02: an index of a bank definition outside the bank's sub-range (R147, R148). -/
  | range (index : BitVec 8) (bank : BankSel) (lo hi : Nat)
  /-- 0x03: an index twice in one bank definition (R147, R148). -/
  | duplicate (index : BitVec 8)
  /-- 0x04: index 0 or 1 in a bank definition (R147, R148). -/
  | reservedIndex (index : BitVec 8)
  /-- 0x05: an atom type the ordering state does not accept: its tag, the value of LAST (0 for Empty) and the mask of
  the types that would have been accepted (R231). -/
  | orderingViolation (offending : BitVec 16) (previous : BitVec 3) (accepted : BitVec 5)
  /-- 0x06: a vendor or product string longer than 255 bytes (R187). -/
  | oversizeString (field : StringField) (length : Nat)
  /-- 0x07: an append to a stream of 65535 atoms (R229). -/
  | atomCountOverflow (limit : Nat)
  /-- 0x08: a 32-bit length field would not hold its value (R183, R230). -/
  | lengthOverflow (length : Nat)
  /-- 0x09: a bank used before any BANK.INIT of it (R22). -/
  | bankNotInitialised (bank : BankSel)
  /-- 0x0A: a must-be-zero bit set, a wrong DATA count, a UUID that is not 16 bytes, or a code with no value
  (R81, R82, R91). -/
  | illegalOperand (field : OperandField) (value : Nat)
  /-- 0x0B: an unassigned opcode (R73). -/
  | illegalCommand (opcode : BitVec 8)
deriving DecidableEq, Repr

/-- The RESULT of a command that succeeds (R71): nothing, a byte, a 16-bit number or a byte string. -/
inductive Result where
  | nothing
  | byte (v : BitVec 8)
  | number (v : BitVec 16)
  | bytes (v : Bytes)
deriving DecidableEq, Repr

/-- A response (R71): OK with its result, or an error status with its info record. -/
inductive Response where
  | ok (r : Result)
  | error (e : Error)
deriving DecidableEq, Repr

/-- What the host can do to the block: issue a command (R6), or reset it (R300). -/
inductive HostEvent where
  | command (c : Command)
  | reset
deriving DecidableEq, Repr

end Sys2Proof
end

