-- ==== Sys2Proof/Syntax.lean ====
section
/-! DEFINITION. The instructions of the block: one constructor per row of spec/opcode_table.json (30_encoding.md R72),
with its operands as values, not as codes (R83). -/

namespace Sys2Proof

/-- The 14 commands of R72, in the table's order. -/
inductive Instr where
  /-- PIN.PACK (R120). -/
  | pinPack (fn : GpioFunction) (pull : PullMode) (used : Bool)
  /-- BANK.INIT (R141). -/
  | bankInit (b : BankSel) (drive : DriveStrength) (slew : SlewRate) (hyst : Hysteresis) (bp : BackPower)
  /-- BANK.SET (R142): `index` is a global pin index. -/
  | bankSet (b : BankSel) (index : BitVec 8) (fn : GpioFunction) (pull : PullMode) (used : Bool)
  /-- BANK.ENCODE (R145). -/
  | bankEncode (b : BankSel)
  /-- BANK.CHECK (R147): `indices` is the list of global indices of a bank definition, one byte each. -/
  | bankCheck (b : BankSel) (indices : Bytes)
  /-- CRC16 (R181). -/
  | crc16 (bytes : Bytes)
  /-- ATOM.FRAME (R183). -/
  | atomFrame (type : AtomType) (seq : BitVec 16) (payload : Bytes)
  /-- VINFO.FORMAT (R185): `uuid` is most significant byte first (R80). -/
  | vinfoFormat (uuid : Bytes) (pid pver : BitVec 16) (vendor product : Bytes)
  /-- STREAM.INIT (R222). -/
  | streamInit
  /-- STREAM.APPEND_VINFO (R224). -/
  | streamAppendVinfo (uuid : Bytes) (pid pver : BitVec 16) (vendor product : Bytes)
  /-- STREAM.APPEND_GPIO (R225). -/
  | streamAppendGpio (b : BankSel)
  /-- STREAM.APPEND_DTB (R226). -/
  | streamAppendDtb (payload : Bytes)
  /-- STREAM.APPEND_CUSTOM (R227). -/
  | streamAppendCustom (payload : Bytes)
  /-- STREAM.SERIALIZE (R232). -/
  | streamSerialize
deriving DecidableEq, Repr

end Sys2Proof
end

