-- ==== Sys2Proof/WellFormed.lean ====
section
/-! DEFINITION. Which terms of `Instr` a command can spell. The enumerated operands have only legal values by their
types, so one check is left: the UUID operand is exactly 16 bytes (30_encoding.md R80, R82). -/

namespace Sys2Proof

/-- The instruction is one that some command encodes (R82: the UUID is 16 bytes; no other operand has a bound at
decode). -/
def Instr.wellFormed : Instr → Bool
  | .pinPack _ _ _ => true
  | .bankInit _ _ _ _ _ => true
  | .bankSet _ _ _ _ _ => true
  | .bankEncode _ => true
  | .bankCheck _ _ => true
  | .crc16 _ => true
  | .atomFrame _ _ _ => true
  | .vinfoFormat uuid _ _ _ _ => uuid.length == Config.uuidLen
  | .streamInit => true
  | .streamAppendVinfo uuid _ _ _ _ => uuid.length == Config.uuidLen
  | .streamAppendGpio _ => true
  | .streamAppendDtb _ => true
  | .streamAppendCustom _ => true
  | .streamSerialize => true

end Sys2Proof
end

