-- ==== Sys2Proof/Decode.lean ====
section
/-! DEFINITION. The code tables of 30_encoding.md R84 to R90, the opcode map R72, the operand-word formats R74 to R80,
the decoder of R101 (total on every word and DATA list, rejecting by status and record), and the encoder. -/

namespace Sys2Proof

/-! ### Code tables (R84 to R90): each is a lookup, never the position in the declaration (R10, R125). -/

/-- The function-select code `fsel` (R84). -/
def GpioFunction.code : GpioFunction → BitVec 3
  | .input => 0#3
  | .output => 1#3
  | .alt5 => 2#3
  | .alt4 => 3#3
  | .alt0 => 4#3
  | .alt1 => 5#3
  | .alt2 => 6#3
  | .alt3 => 7#3

/-- The function of an fsel code; every 3-bit code has one (R84). -/
def GpioFunction.ofCode (c : BitVec 3) : GpioFunction :=
  match c.toNat with
  | 0 => .input
  | 1 => .output
  | 2 => .alt5
  | 3 => .alt4
  | 4 => .alt0
  | 5 => .alt1
  | 6 => .alt2
  | _ => .alt3

/-- The 2-bit pull code (R85). -/
def PullMode.code : PullMode → BitVec 2
  | .default => 0#2
  | .up => 1#2
  | .down => 2#2
  | .none => 3#2

/-- The pull mode of a code; every 2-bit code has one (R85). -/
def PullMode.ofCode (c : BitVec 2) : PullMode :=
  match c.toNat with
  | 0 => .default
  | 1 => .up
  | 2 => .down
  | _ => .none

/-- The 4-bit drive code (R86). -/
def DriveStrength.code : DriveStrength → BitVec 4
  | .default => 0#4
  | .ma2 => 1#4
  | .ma4 => 2#4
  | .ma6 => 3#4
  | .ma8 => 4#4
  | .ma10 => 5#4
  | .ma12 => 6#4
  | .ma14 => 7#4
  | .ma16 => 8#4

/-- The drive strength of a code; codes 9 to 15 have no value (R86). -/
def DriveStrength.ofCode (c : BitVec 4) : Option DriveStrength :=
  match c.toNat with
  | 0 => some .default
  | 1 => some .ma2
  | 2 => some .ma4
  | 3 => some .ma6
  | 4 => some .ma8
  | 5 => some .ma10
  | 6 => some .ma12
  | 7 => some .ma14
  | 8 => some .ma16
  | _ => none

/-- The 2-bit slew code (R87). -/
def SlewRate.code : SlewRate → BitVec 2
  | .default => 0#2
  | .rateLimiting => 1#2
  | .noLimit => 2#2

/-- The slew rate of a code; code 3 has no value (R87). -/
def SlewRate.ofCode (c : BitVec 2) : Option SlewRate :=
  match c.toNat with
  | 0 => some .default
  | 1 => some .rateLimiting
  | 2 => some .noLimit
  | _ => none

/-- The 2-bit hysteresis code (R88). -/
def Hysteresis.code : Hysteresis → BitVec 2
  | .default => 0#2
  | .disable => 1#2
  | .enable => 2#2

/-- The hysteresis of a code; code 3 has no value (R88). -/
def Hysteresis.ofCode (c : BitVec 2) : Option Hysteresis :=
  match c.toNat with
  | 0 => some .default
  | 1 => some .disable
  | 2 => some .enable
  | _ => none

/-- The 2-bit back-power code (R89). -/
def BackPower.code : BackPower → BitVec 2
  | .none => 0#2
  | .amp1_3 => 1#2
  | .amp2 => 2#2

/-- The back-power value of a code; code 3 has no value (R89). -/
def BackPower.ofCode (c : BitVec 2) : Option BackPower :=
  match c.toNat with
  | 0 => some .none
  | 1 => some .amp1_3
  | 2 => some .amp2
  | _ => Option.none

/-- The 16-bit wire tag of an atom type (R90). -/
def AtomType.tag : AtomType → BitVec 16
  | .vendorInfo => 1#16
  | .gpioBank0Map => 2#16
  | .linuxDtb => 3#16
  | .manufCustomData => 4#16
  | .gpioBank1Map => 5#16

/-- The atom type of a tag; tags 0 and 6 to 65535 have no type (R90). -/
def AtomType.ofTag (c : BitVec 16) : Option AtomType :=
  match c.toNat with
  | 1 => some .vendorInfo
  | 2 => some .gpioBank0Map
  | 3 => some .linuxDtb
  | 4 => some .manufCustomData
  | 5 => some .gpioBank1Map
  | _ => none

/-- The 1-bit selector SEL of a bank (R76). -/
def BankSel.code : BankSel → BitVec 1
  | .bank0 => 0#1
  | .bank1 => 1#1

/-- The bank that SEL selects (R76). -/
def BankSel.ofCode (c : BitVec 1) : BankSel :=
  match c.toNat with
  | 0 => .bank0
  | _ => .bank1

/-- US: 1 for used, 0 for unused (R83). -/
def usedCode : Bool → BitVec 1
  | false => 0#1
  | true => 1#1

/-- The used flag that US spells (R83). -/
def usedOfCode (c : BitVec 1) : Bool :=
  match c.toNat with
  | 0 => false
  | _ => true

/-! ### Opcode map and formats (R72 to R80) -/

/-- The assigned opcodes of R72, one for each mnemonic. -/
inductive Opcode where
  | pinPack
  | bankInit
  | bankSet
  | bankEncode
  | bankCheck
  | crc16
  | atomFrame
  | vinfoFormat
  | streamInit
  | streamAppendVinfo
  | streamAppendGpio
  | streamAppendDtb
  | streamAppendCustom
  | streamSerialize
deriving DecidableEq, Repr

/-- The formats of the operand word (R74 to R80). -/
inductive Format where
  | N
  | P
  | BI
  | BS
  | B
  | AF
  | V
deriving DecidableEq, Repr

/-- The opcode value (R72). -/
def Opcode.value : Opcode → BitVec 8
  | .pinPack => 0x01#8
  | .bankInit => 0x10#8
  | .bankSet => 0x11#8
  | .bankEncode => 0x12#8
  | .bankCheck => 0x13#8
  | .crc16 => 0x20#8
  | .atomFrame => 0x21#8
  | .vinfoFormat => 0x22#8
  | .streamInit => 0x30#8
  | .streamAppendVinfo => 0x31#8
  | .streamAppendGpio => 0x32#8
  | .streamAppendDtb => 0x33#8
  | .streamAppendCustom => 0x34#8
  | .streamSerialize => 0x35#8

/-- The opcode of a value; the other 242 values are unassigned (R72, R73). -/
def Opcode.ofValue (v : BitVec 8) : Option Opcode :=
  match v.toNat with
  | 0x01 => some .pinPack
  | 0x10 => some .bankInit
  | 0x11 => some .bankSet
  | 0x12 => some .bankEncode
  | 0x13 => some .bankCheck
  | 0x20 => some .crc16
  | 0x21 => some .atomFrame
  | 0x22 => some .vinfoFormat
  | 0x30 => some .streamInit
  | 0x31 => some .streamAppendVinfo
  | 0x32 => some .streamAppendGpio
  | 0x33 => some .streamAppendDtb
  | 0x34 => some .streamAppendCustom
  | 0x35 => some .streamSerialize
  | _ => none

/-- The operand-word format of an opcode (R72). -/
def Opcode.format : Opcode → Format
  | .pinPack => .P
  | .bankInit => .BI
  | .bankSet => .BS
  | .bankEncode => .B
  | .bankCheck => .B
  | .crc16 => .N
  | .atomFrame => .AF
  | .vinfoFormat => .V
  | .streamInit => .N
  | .streamAppendVinfo => .V
  | .streamAppendGpio => .B
  | .streamAppendDtb => .N
  | .streamAppendCustom => .N
  | .streamSerialize => .N

/-- The number of DATA strings of an opcode (R72). -/
def Opcode.dataCount : Opcode → Nat
  | .pinPack => 0
  | .bankInit => 0
  | .bankSet => 0
  | .bankEncode => 0
  | .bankCheck => 1
  | .crc16 => 1
  | .atomFrame => 1
  | .vinfoFormat => 3
  | .streamInit => 0
  | .streamAppendVinfo => 3
  | .streamAppendGpio => 0
  | .streamAppendDtb => 1
  | .streamAppendCustom => 1
  | .streamSerialize => 0

/-- The must-be-zero bits of a format, as a mask over IMM (R74 to R80). -/
def Format.mustBeZero : Format → BitVec 32
  | .N => 0xFFFFFFFF#32
  | .P => 0xFFFFFEC8#32
  | .BI => 0xFEFFFC00#32
  | .BS => 0xFE00FEC8#32
  | .B => 0xFEFFFFFF#32
  | .AF => 0x00000000#32
  | .V => 0x00000000#32

/-! ### Fields of the command word (R70, R75 to R80) -/

/-- OPC, bits 39:32 of the command word (R70). -/
def Command.opc (c : Command) : BitVec 8 := c.word.extractLsb' 32 8

/-- IMM, bits 31:0 of the command word (R70). -/
def Command.imm (c : Command) : BitVec 32 := c.word.extractLsb' 0 32

/-- `DATA[k]` (R11, R70). The decoder reads it only after the DATA count was checked. -/
def Command.dataAt (c : Command) (k : Nat) : Bytes := c.data.getD k []

namespace Imm

/-- FN, bits 2:0 (R75, R77). -/
def fn (imm : BitVec 32) : BitVec 3 := imm.extractLsb' 0 3

/-- PL, bits 5:4 (R75, R77). -/
def pl (imm : BitVec 32) : BitVec 2 := imm.extractLsb' 4 2

/-- US, bit 8 (R75, R77). -/
def us (imm : BitVec 32) : BitVec 1 := imm.extractLsb' 8 1

/-- DR, bits 3:0 (R76). -/
def dr (imm : BitVec 32) : BitVec 4 := imm.extractLsb' 0 4

/-- SL, bits 5:4 (R76). -/
def sl (imm : BitVec 32) : BitVec 2 := imm.extractLsb' 4 2

/-- HY, bits 7:6 (R76). -/
def hy (imm : BitVec 32) : BitVec 2 := imm.extractLsb' 6 2

/-- BP, bits 9:8 (R76). -/
def bp (imm : BitVec 32) : BitVec 2 := imm.extractLsb' 8 2

/-- SEL, bit 24 (R76 to R78). -/
def sel (imm : BitVec 32) : BitVec 1 := imm.extractLsb' 24 1

/-- IDX, bits 23:16 (R77). -/
def idx (imm : BitVec 32) : BitVec 8 := imm.extractLsb' 16 8

/-- TY of format AF and PID of format V, bits 15:0 (R79, R80). -/
def lo16 (imm : BitVec 32) : BitVec 16 := imm.extractLsb' 0 16

/-- SQ of format AF and PVER of format V, bits 31:16 (R79, R80). -/
def hi16 (imm : BitVec 32) : BitVec 16 := imm.extractLsb' 16 16

end Imm

/-! ### The decoder (R101) -/

/-- Step 3 of R101: the record of a wrong DATA count or, the count being right, of a UUID that is not 16 bytes (R82).
DEDUCED (assumption log 4): the count comes first. -/
def dataFault (op : Opcode) (c : Command) : Option (OperandField × Nat) :=
  if c.data.length ≠ op.dataCount then some (.data, c.data.length)
  else if op.format = .V ∧ (c.dataAt 0).length ≠ Config.uuidLen then some (.uuid, (c.dataAt 0).length)
  else none

/-- One code field of step 4 of R101: its record if the code has no value (R91). -/
def noValue (field : OperandField) (code : Nat) (hasValue : Bool) : List (OperandField × Nat) :=
  if hasValue then [] else [(field, code)]

/-- Step 4 of R101: the records of all code fields that hold a code with no value (R91). -/
def codeFaults (op : Opcode) (imm : BitVec 32) : List (OperandField × Nat) :=
  match op with
  | .bankInit =>
    noValue .dr (Imm.dr imm).toNat (DriveStrength.ofCode (Imm.dr imm)).isSome ++
    noValue .sl (Imm.sl imm).toNat (SlewRate.ofCode (Imm.sl imm)).isSome ++
    noValue .hy (Imm.hy imm).toNat (Hysteresis.ofCode (Imm.hy imm)).isSome ++
    noValue .bp (Imm.bp imm).toNat (BackPower.ofCode (Imm.bp imm)).isSome
  | .atomFrame => noValue .ty (Imm.lo16 imm).toNat (AtomType.ofTag (Imm.lo16 imm)).isSome
  | _ => []

/-- The record step 4 reports: the only one there is, or, of several, the one the free value names (R91; assumption
log 3). -/
def reportedCodeFault (imm : BitVec 32) (first : OperandField × Nat) (others : List (OperandField × Nat)) :
    OperandField × Nat :=
  match others with
  | [] => first
  | _ :: _ => (first :: others).getD (Config.illegalCodeChoice imm % (first :: others).length) first

/-- Step 5 of R101: the instruction of a command that passed steps 1 to 4. There every code has a value and every
DATA string is present, so no alternative of a `getD` is taken. -/
def instrOf (op : Opcode) (c : Command) : Instr :=
  let imm := c.imm
  match op with
  | .pinPack => .pinPack (.ofCode (Imm.fn imm)) (.ofCode (Imm.pl imm)) (usedOfCode (Imm.us imm))
  | .bankInit =>
    .bankInit (.ofCode (Imm.sel imm)) ((DriveStrength.ofCode (Imm.dr imm)).getD .default)
      ((SlewRate.ofCode (Imm.sl imm)).getD .default) ((Hysteresis.ofCode (Imm.hy imm)).getD .default)
      ((BackPower.ofCode (Imm.bp imm)).getD .none)
  | .bankSet =>
    .bankSet (.ofCode (Imm.sel imm)) (Imm.idx imm) (.ofCode (Imm.fn imm)) (.ofCode (Imm.pl imm))
      (usedOfCode (Imm.us imm))
  | .bankEncode => .bankEncode (.ofCode (Imm.sel imm))
  | .bankCheck => .bankCheck (.ofCode (Imm.sel imm)) (c.dataAt 0)
  | .crc16 => .crc16 (c.dataAt 0)
  | .atomFrame => .atomFrame ((AtomType.ofTag (Imm.lo16 imm)).getD .vendorInfo) (Imm.hi16 imm) (c.dataAt 0)
  | .vinfoFormat => .vinfoFormat (c.dataAt 0) (Imm.lo16 imm) (Imm.hi16 imm) (c.dataAt 1) (c.dataAt 2)
  | .streamInit => .streamInit
  | .streamAppendVinfo => .streamAppendVinfo (c.dataAt 0) (Imm.lo16 imm) (Imm.hi16 imm) (c.dataAt 1) (c.dataAt 2)
  | .streamAppendGpio => .streamAppendGpio (.ofCode (Imm.sel imm))
  | .streamAppendDtb => .streamAppendDtb (c.dataAt 0)
  | .streamAppendCustom => .streamAppendCustom (c.dataAt 0)
  | .streamSerialize => .streamSerialize

/-- The decoder (R101): the five steps in their order. It answers the instruction, or the error the command raises. -/
def decode (c : Command) : Except Error Instr :=
  match Opcode.ofValue c.opc with
  | none => .error (.illegalCommand c.opc)
  | some op =>
    if c.imm &&& op.format.mustBeZero ≠ 0#32 then .error (.illegalOperand .reserved c.imm.toNat)
    else
      match dataFault op c with
      | some r => .error (.illegalOperand r.1 r.2)
      | none =>
        match codeFaults op c.imm with
        | r :: rs => .error (.illegalOperand (reportedCodeFault c.imm r rs).1 (reportedCodeFault c.imm r rs).2)
        | [] => .ok (instrOf op c)

/-! ### The encoder: the command that spells an instruction (R74 to R80, and the Encoding line of each command rule) -/

/-- The opcode of an instruction (R72). -/
def Instr.opcode : Instr → Opcode
  | .pinPack _ _ _ => .pinPack
  | .bankInit _ _ _ _ _ => .bankInit
  | .bankSet _ _ _ _ _ => .bankSet
  | .bankEncode _ => .bankEncode
  | .bankCheck _ _ => .bankCheck
  | .crc16 _ => .crc16
  | .atomFrame _ _ _ => .atomFrame
  | .vinfoFormat _ _ _ _ _ => .vinfoFormat
  | .streamInit => .streamInit
  | .streamAppendVinfo _ _ _ _ _ => .streamAppendVinfo
  | .streamAppendGpio _ => .streamAppendGpio
  | .streamAppendDtb _ => .streamAppendDtb
  | .streamAppendCustom _ => .streamAppendCustom
  | .streamSerialize => .streamSerialize

/-- A field of the operand word, placed with its bit 0 at bit `lo`; every other bit is 0 (R7). -/
def place {n : Nat} (field : BitVec n) (lo : Nat) : BitVec 32 := field.setWidth 32 <<< lo

/-- Format P: `0000 0000 0000 0000 0000 000u 00pp 0fff` (R75). -/
def encodeP (fn : BitVec 3) (pl : BitVec 2) (us : BitVec 1) : BitVec 32 :=
  place us 8 ||| place pl 4 ||| place fn 0

/-- Format BI: `0000 000k 0000 0000 0000 00bb hhss dddd` (R76). -/
def encodeBI (sel : BitVec 1) (bp hy sl : BitVec 2) (dr : BitVec 4) : BitVec 32 :=
  place sel 24 ||| place bp 8 ||| place hy 6 ||| place sl 4 ||| place dr 0

/-- Format BS: `0000 000k iiii iiii 0000 000u 00pp 0fff` (R77). -/
def encodeBS (sel : BitVec 1) (idx : BitVec 8) (fn : BitVec 3) (pl : BitVec 2) (us : BitVec 1) : BitVec 32 :=
  place sel 24 ||| place idx 16 ||| place us 8 ||| place pl 4 ||| place fn 0

/-- Format B: `0000 000k 0000 0000 0000 0000 0000 0000` (R78). -/
def encodeB (sel : BitVec 1) : BitVec 32 := place sel 24

/-- Formats AF and V: a 16-bit field at bits 31:16 above one at bits 15:0 (R79, R80). -/
def encodeHiLo (hi lo : BitVec 16) : BitVec 32 := place hi 16 ||| place lo 0

/-- The operand word of an instruction (R74 to R80, R83). -/
def Instr.imm : Instr → BitVec 32
  | .pinPack fn pull used => encodeP fn.code pull.code (usedCode used)
  | .bankInit b drive slew hyst bp => encodeBI b.code bp.code hyst.code slew.code drive.code
  | .bankSet b index fn pull used => encodeBS b.code index fn.code pull.code (usedCode used)
  | .bankEncode b => encodeB b.code
  | .bankCheck b _ => encodeB b.code
  | .crc16 _ => 0#32
  | .atomFrame type seq _ => encodeHiLo seq type.tag
  | .vinfoFormat _ pid pver _ _ => encodeHiLo pver pid
  | .streamInit => 0#32
  | .streamAppendVinfo _ pid pver _ _ => encodeHiLo pver pid
  | .streamAppendGpio b => encodeB b.code
  | .streamAppendDtb _ => 0#32
  | .streamAppendCustom _ => 0#32
  | .streamSerialize => 0#32

/-- The DATA strings of an instruction (R72, R80). -/
def Instr.data : Instr → List Bytes
  | .pinPack _ _ _ => []
  | .bankInit _ _ _ _ _ => []
  | .bankSet _ _ _ _ _ => []
  | .bankEncode _ => []
  | .bankCheck _ indices => [indices]
  | .crc16 bytes => [bytes]
  | .atomFrame _ _ payload => [payload]
  | .vinfoFormat uuid _ _ vendor product => [uuid, vendor, product]
  | .streamInit => []
  | .streamAppendVinfo uuid _ _ vendor product => [uuid, vendor, product]
  | .streamAppendGpio _ => []
  | .streamAppendDtb payload => [payload]
  | .streamAppendCustom payload => [payload]
  | .streamSerialize => []

/-- The command that spells an instruction: the word `OPC ‖ IMM` and the DATA strings (R70). -/
def encode (i : Instr) : Command where
  word := i.opcode.value ++ i.imm
  data := i.data

/-! ### A word of the opcode table as a command -/

/-- The DATA strings given to a bare word of the opcode table, which names none: as many as its opcode takes, the UUID
sixteen zero bytes and every other string empty (DESIGN CHOICE, assumption log 2). -/
def tableData (word : BitVec 40) : List Bytes :=
  match Opcode.ofValue (Command.opc ⟨word, []⟩) with
  | none => []
  | some op =>
    match op.format with
    | .V => List.replicate Config.uuidLen 0#8 :: List.replicate (op.dataCount - 1) []
    | _ => List.replicate op.dataCount []

/-- The command of the opcode-table word `w` of `nbits` bits: bit 0 of `w` is bit 0 of the 40-bit command word. -/
def tableCommand (nbits w : Nat) : Command where
  word := BitVec.ofNat 40 (w % 2 ^ nbits)
  data := tableData (BitVec.ofNat 40 (w % 2 ^ nbits))

/-- The instruction the decoder reads from the opcode-table word `w` of `nbits` bits. -/
def decodeTableWord (nbits w : Nat) : Option Instr :=
  match decode (tableCommand nbits w) with
  | .ok i => some i
  | .error _ => none

end Sys2Proof
end

