-- ==== Sys2Proof/Machine/State.lean ====
section
/-! DEFINITION. The state of the block (10_state.md R20): two bank register sets and the stream; beside it the model's
own two fields, what the host has issued and the response it was last given. Faults, refusals, and the state after
reset (R39). -/

namespace Sys2Proof.Machine

/-- A pin register `PIN[b][k]` (R28): FN, PL and US, each as the value its code stands for. All codes are legal. -/
structure Pin where
  fn   : GpioFunction
  pull : PullMode
  used : Bool
deriving DecidableEq, Repr

/-- The default pin of BANK.INIT: (FN = 0, PL = 0, US = 0), that is (Input, Default, unused) (R141). -/
def Pin.unused : Pin := ⟨.input, .default, false⟩

/-- A bank register set of `n` pins (R21 to R28). The control fields hold the values their codes stand for, so codes
with no value (R29, R282) cannot be held. -/
structure Bank (n : Nat) where
  /-- VALID (R22). -/
  valid : Bool
  /-- DRIVE (R23). -/
  drive : DriveStrength
  /-- SLEW (R24). -/
  slew  : SlewRate
  /-- HYST (R25). -/
  hyst  : Hysteresis
  /-- BP (R26). -/
  bp    : BackPower
  /-- `PIN[b][0]` to `PIN[b][n-1]` (R27). -/
  pins  : Vector Pin n
deriving DecidableEq, Repr

/-- An entry `(TYPE, SEQ, PAYLOAD)` of the atom store (R34). -/
structure Atom where
  type    : AtomType
  seq     : BitVec 16
  payload : Bytes
deriving DecidableEq, Repr

/-- The stream state `(LAST, COUNT, ATOMS)` (R20). -/
structure Stream where
  /-- LAST (R32): the type of the most recently accepted atom; `none` is the spec's own state Empty (0). The values 6
  and 7 cannot be held (R282). -/
  last  : Option AtomType
  /-- COUNT (R33). -/
  count : BitVec 16
  /-- ATOMS (R34), atom 0 first. -/
  atoms : List Atom
deriving DecidableEq, Repr

/-- The state. `bank0`, `bank1` and `stream` are the block's (R20: nothing else is state). `pending` and `response` are
the model's own (assumption log 1): the host's inputs not yet taken, the next one first, and what the host was last
given. No command reads either. -/
structure State where
  /-- `BANK[0]` (R21). -/
  bank0    : Bank 28
  /-- `BANK[1]` (R21). -/
  bank1    : Bank 18
  /-- STREAM (R32 to R36). -/
  stream   : Stream
  /-- What the host has issued and the block has not yet taken (R6, R58). -/
  pending  : List HostEvent
  /-- The response of the last command (R71); none before the first one and after a reset (R300). -/
  response : Option Response
deriving DecidableEq, Repr

/-- Why the machine stops. -/
inductive Fault where
  /-- Raised by STREAM.SERIALIZE alone, when the image would be longer than `2^32 - 1` bytes: `le32` has no value there
  (R8), and 10_state.md R35 item 5 excludes such a stream, so no run from reset gets there (R282). Safe. -/
  | imageTooLong
deriving DecidableEq, Repr

/-- Why an instruction has no meaning. -/
inductive Refusal where
  /-- Raised by a refused arm of `exec`, for an instruction not modelled yet. Safe. No arm raises it: every
  instruction has its meaning. -/
  | notModelled (mnemonic : String)
deriving DecidableEq, Repr

/-- A bank register set after reset: VALID = 0 (R39). The other fields are unspecified and unobservable while VALID = 0
(R39, R40); the values here are the model's (DESIGN CHOICE, assumption log 5). -/
def Bank.reset (n : Nat) : Bank n where
  valid := false
  drive := .default
  slew := .default
  hyst := .default
  bp := .none
  pins := Vector.replicate n Pin.unused

/-- The empty stream, after reset (R39) and after STREAM.INIT (R222). -/
def Stream.empty : Stream where
  last := none
  count := 0#16
  atoms := []

/-- The state after reset (R39): both banks invalid, the stream empty, and nothing issued or answered yet. -/
def State.reset : State where
  bank0 := Bank.reset 28
  bank1 := Bank.reset 18
  stream := Stream.empty
  pending := []
  response := none

end Sys2Proof.Machine
end

