-- ==== Sys2Proof/Machine/Flags.lean ====
section
/-! DEFINITION. The block has no flags: the status code of the response is its only condition indication
(10_state.md R38). The codes of 60_exceptions.md R271. -/

namespace Sys2Proof

/-- The status code of an error (R271). -/
def Error.status : Error → BitVec 8
  | .outOfBound _ _ => 0x01#8
  | .range _ _ _ _ => 0x02#8
  | .duplicate _ => 0x03#8
  | .reservedIndex _ => 0x04#8
  | .orderingViolation _ _ _ => 0x05#8
  | .oversizeString _ _ => 0x06#8
  | .atomCountOverflow _ => 0x07#8
  | .lengthOverflow _ => 0x08#8
  | .bankNotInitialised _ => 0x09#8
  | .illegalOperand _ _ => 0x0A#8
  | .illegalCommand _ => 0x0B#8

/-- STATUS of a response; 0x00 is OK (R71, R271). -/
def Response.status : Response → BitVec 8
  | .ok _ => 0x00#8
  | .error e => e.status

end Sys2Proof
end

