-- ==== Sys2Proof/Machine/Operands.lean ====
section
/-! DEFINITION. The operand checks of the commands: the pin index of BANK.SET (41_bank_encoder.md R142, R143), the index
list of BANK.CHECK (R147 to R149), and the strings of the vendor info (42_atom_framer.md R185, R187). -/

namespace Sys2Proof.Machine

/-- The local index of a global pin index of bank `b`, or none outside the bank's span: 0..27 for bank 0, and 28..45 for
bank 1, where it is the index less 28, subtracted only from 28 on (R140, R142, R143). -/
def localIndex (b : BankSel) (index : BitVec 8) : Option (Fin b.pinCount) :=
  match b with
  | .bank0 => if h : index.toNat < Config.pins0 then some ⟨index.toNat, h⟩ else none
  | .bank1 =>
    if index.toNat < Config.pins0 then none
    else if h : index.toNat - Config.pins0 < Config.pins1 then some ⟨index.toNat - Config.pins0, h⟩
    else none

/-- The allowed range `(lo, hi)` that a RANGE error of bank `b` reports (R147, R148). -/
def allowedRange : BankSel → Nat × Nat
  | .bank0 => (2, 27)
  | .bank1 => (28, 45)

/-- An index of a bank definition lies outside the sub-range of bank `b` (R147). -/
def outsideBank (b : BankSel) (i : BitVec 8) : Bool :=
  match b with
  | .bank0 => decide (27 < i.toNat)
  | .bank1 => decide (i.toNat < 28) || decide (45 < i.toNat)

/-- The error of one entry of a bank definition, `seen` being the entries before it: reserved, then range, then
duplicate (R147, R149). -/
def indexFault (b : BankSel) (seen : Bytes) (i : BitVec 8) : Option Error :=
  if i.toNat = 0 ∨ i.toNat = 1 then some (.reservedIndex i)
  else if outsideBank b i then some (.range i b (allowedRange b).1 (allowedRange b).2)
  else if i ∈ seen then some (.duplicate i)
  else none

/-- The first error of a bank definition, scanning it in its order (R147, R149). -/
def definitionFault (b : BankSel) (seen : Bytes) : Bytes → Option Error
  | [] => none
  | i :: rest =>
    match indexFault b seen i with
    | some e => some e
    | none => definitionFault b (i :: seen) rest

/-- VINFOCHECK (R185): the vendor string first, then the product string (R187). -/
def vinfoFault (vendor product : Bytes) : Option Error :=
  if vendor.length > Config.maxStr then some (.oversizeString .vendor vendor.length)
  else if product.length > Config.maxStr then some (.oversizeString .product product.length)
  else none

end Sys2Proof.Machine
end

