-- ==== Sys2Proof/Machine/Ops.lean ====
section
/-! DEFINITION. The operations the commands share: byte order, the pin, bank, CRC, frame, payload and image functions of
the spec's pseudocode, the ordering table, access to the bank register sets, answering, and appending an atom. The block
has no trap: an error is a response that writes no block state (60_exceptions.md R270, R272), and `State.raise` is the
one operation that gives it. -/

namespace Sys2Proof.Machine

/-! ### Byte order (R8, R51) -/

/-- `le16(v)` (R8). -/
def le16 (v : BitVec 16) : Bytes := [v.extractLsb' 0 8, v.extractLsb' 8 8]

/-- `le32(v)` (R8). -/
def le32 (v : BitVec 32) : Bytes :=
  [v.extractLsb' 0 8, v.extractLsb' 8 8, v.extractLsb' 16 8, v.extractLsb' 24 8]

/-! ### Pin and bank bytes (R30, R31, R120, R145) -/

/-- `PACK(fn3, pl2, us1)` (R120). -/
def pack (fn3 : BitVec 3) (pl2 : BitVec 2) (us1 : BitVec 1) : BitVec 8 :=
  fn3.setWidth 8 ||| (pl2.setWidth 8 <<< 5) ||| (us1.setWidth 8 <<< 7)

/-- The packed byte of a pin register: `PACK(PIN.FN, PIN.PL, PIN.US)` (R145). -/
def Pin.byte (p : Pin) : BitVec 8 := pack p.fn.code p.pull.code (usedCode p.used)

/-- `CTRL(b)` (R30). -/
def Bank.control {n : Nat} (b : Bank n) : BitVec 8 :=
  b.drive.code.setWidth 8 ||| (b.slew.code.setWidth 8 <<< 4) ||| (b.hyst.code.setWidth 8 <<< 6)

/-- `BPB(b)` (R31). -/
def Bank.backPower {n : Nat} (b : Bank n) : BitVec 8 := b.bp.code.setWidth 8

/-- `BANKBYTES(b)` (R145). -/
def Bank.bytes {n : Nat} (b : Bank n) : Bytes := b.control :: b.backPower :: b.pins.toList.map Pin.byte

/-- The bank register set that BANK.INIT leaves (R141). -/
def Bank.init (n : Nat) (drive : DriveStrength) (slew : SlewRate) (hyst : Hysteresis) (bp : BackPower) : Bank n where
  valid := true
  drive := drive
  slew := slew
  hyst := hyst
  bp := bp
  pins := Vector.replicate n Pin.unused

/-- The bank register set with one pin register written (R142). -/
def Bank.setPin {n : Nat} (b : Bank n) (k : Fin n) (p : Pin) : Bank n := { b with pins := b.pins.set k p }

/-! ### CRC-16/ARC (R180) -/

/-- 0xA001: the polynomial 0x8005 bit-reversed, for the rightward loop (R180). -/
def crcReversedPoly : BitVec 16 := 0xA001#16

/-- One pass of the inner loop (R180). -/
def crcShift (c : BitVec 16) : BitVec 16 :=
  if c.getLsbD 0 then (c >>> 1) ^^^ crcReversedPoly else c >>> 1

/-- `n` passes of the inner loop. -/
def crcShifts : Nat → BitVec 16 → BitVec 16
  | 0, c => c
  | n + 1, c => crcShifts n (crcShift c)

/-- The outer loop's body on one byte (R180). -/
def crcByte (c : BitVec 16) (b : BitVec 8) : BitVec 16 := crcShifts 8 (c ^^^ b.setWidth 16)

/-- `CRC16(s)` (R180). -/
def crc16 (s : Bytes) : BitVec 16 := s.foldl crcByte Config.crcInit

/-! ### Atom frame and vendor-info payload (R183, R185) -/

/-- The bytes of a frame that its CRC covers: the type tag through the payload (R182). -/
def frameBody (t : AtomType) (q : BitVec 16) (p : Bytes) : Bytes :=
  le16 t.tag ++ le16 q ++ le32 (BitVec.ofNat 32 (p.length + 2)) ++ p

/-- `FRAME(t, q, p)` (R183). Used only where `len(p) + 2` fits its 32-bit field. -/
def frame (t : AtomType) (q : BitVec 16) (p : Bytes) : Bytes :=
  frameBody t q p ++ le16 (crc16 (frameBody t q p))

/-- `VINFOBYTES(u, pid, pv, vs, ps)` (R185). Used only where both strings have at most 255 bytes. -/
def vinfoBytes (uuid : Bytes) (pid pver : BitVec 16) (vendor product : Bytes) : Bytes :=
  uuid.reverse ++ le16 pid ++ le16 pver ++ [BitVec.ofNat 8 vendor.length] ++ [BitVec.ofNat 8 product.length]
    ++ vendor ++ product

/-! ### Stream (R36, R220 to R223, R232) -/

/-- `TOTAL_LEN` of an atom store (R36). Every stored atom is counted, also where COUNT is not their number, a stream that
R35 item 1 excludes (DESIGN CHOICE, assumption log 15). -/
def totalLen (atoms : List Atom) : Nat :=
  Config.hdrLen + (atoms.map fun a => a.payload.length + Config.atomOvh).sum

/-- `ACCEPT(state)`, one row for each ordering state (R220). -/
def acceptRow : Option AtomType → List AtomType
  | none => [.vendorInfo]
  | some .vendorInfo => [.gpioBank0Map]
  | some .gpioBank0Map => [.linuxDtb, .manufCustomData, .gpioBank1Map]
  | some .linuxDtb => [.manufCustomData, .gpioBank1Map]
  | some .manufCustomData => [.manufCustomData, .gpioBank1Map]
  | some .gpioBank1Map => []

/-- The value of LAST: 0 for Empty, else the type's tag (R32). -/
def lastCode : Option AtomType → BitVec 3
  | none => 0#3
  | some t => t.tag.setWidth 3

/-- The mask of a set of atom types: bit `t - 1` set for each tag `t` (R220). -/
def typeMask (ts : List AtomType) : BitVec 5 :=
  ts.foldl (fun m t => m ||| (1#5 <<< (t.tag.toNat - 1))) 0#5

/-- The stream with one atom accepted: the three writes of R223. -/
def Stream.push (t : AtomType) (p : Bytes) (st : Stream) : Stream where
  last := some t
  count := st.count + 1#16
  atoms := st.atoms ++ [⟨t, st.count, p⟩]

/-- The body of the image: every stored atom's frame, in stream order (R232, R234), also where COUNT is not their number
(DESIGN CHOICE, assumption log 15). -/
def imageBody (atoms : List Atom) : Bytes := atoms.flatMap fun a => frame a.type a.seq a.payload

/-- The 12-byte image header (R98, R233). -/
def imageHeader (count : BitVec 16) (total : BitVec 32) : Bytes :=
  le32 Config.signature ++ [Config.formatVersion] ++ [0x00#8] ++ le16 count ++ le32 total

/-- `IMAGE` (R232, R54). Used only where the length fits its 32-bit field. DESIGN CHOICE (assumption log 15): where COUNT is
not the number of stored atoms, a stream that R35 item 1 excludes, the header holds COUNT while the body and
`total_length` take every stored atom; R232 and R36 name only ATOMS[0] to ATOMS[COUNT-1]. -/
def image (st : Stream) : Bytes :=
  imageHeader st.count (BitVec.ofNat 32 (Config.hdrLen + (imageBody st.atoms).length)) ++ imageBody st.atoms

/-! ### State access and answers -/

/-- `BANK[b]` (R21). -/
def State.bank (s : State) : (b : BankSel) → Bank b.pinCount
  | .bank0 => s.bank0
  | .bank1 => s.bank1

/-- `BANK[b] <- v` (R11, R21). -/
def State.setBank (s : State) : (b : BankSel) → Bank b.pinCount → State
  | .bank0, v => { s with bank0 := v }
  | .bank1, v => { s with bank1 := v }

/-- `STREAM <- v`. -/
def State.setStream (s : State) (v : Stream) : State := { s with stream := v }

/-- `respond OK(r)` (R11). -/
def State.ok (s : State) (r : Result) : State := { s with response := some (.ok r) }

/-- `raise E(info)` (R11): the response is the error, and no block state is written (R272). -/
def State.raise (s : State) (e : Error) : State := { s with response := some (.error e) }

/-- `APPEND(t, p)` (R223): ordering, then the atom count, then the length; then the three writes together. -/
def append (t : AtomType) (p : Bytes) (s : State) : State :=
  if t ∉ acceptRow s.stream.last then
    s.raise (.orderingViolation t.tag (lastCode s.stream.last) (typeMask (acceptRow s.stream.last)))
  else if s.stream.count.toNat = Config.maxAtoms then s.raise (.atomCountOverflow Config.maxAtoms)
  else if totalLen s.stream.atoms + p.length + Config.atomOvh > Config.lenMax then s.raise (.lengthOverflow p.length)
  else (s.setStream (s.stream.push t p)).ok (.number s.stream.count)

/-- The atom type of bank `b`'s map (R225). -/
def mapType : BankSel → AtomType
  | .bank0 => .gpioBank0Map
  | .bank1 => .gpioBank1Map

/-! ### The host's inputs (R6, R58, R300) -/

/-- The reset event (R300): all block state to its reset value, no response; what the host has issued after it stays
issued. -/
def State.applyReset (s : State) : State := { State.reset with pending := s.pending }

/-- The next input of the host, and the state with it taken; none when the host has issued nothing. -/
def State.take (s : State) : Option (HostEvent × State) :=
  match s.pending with
  | [] => none
  | e :: rest => some (e, { s with pending := rest })

/-- The state in which the command `c` is the next input. -/
def State.issue (s : State) (c : Command) : State := { s with pending := .command c :: s.pending }

end Sys2Proof.Machine
end

