-- ==== Sys2Proof/Machine/AtomFramer.lean ====
section
/-! DEFINITION. The atom framer, the CRC and the vendor-info formatter (42_atom_framer.md). -/

namespace Sys2Proof.Machine

/-- CRC16 (R181). -/
def execCrc16 (bytes : Bytes) (s : State) : Host.Outcome State Fault Refusal :=
  .next (s.ok (.number (crc16 bytes)))

/-- ATOM.FRAME (R183). -/
def execAtomFrame (type : AtomType) (seq : BitVec 16) (payload : Bytes) (s : State) :
    Host.Outcome State Fault Refusal :=
  if payload.length + 2 > Config.lenMax then .next (s.raise (.lengthOverflow payload.length))
  else .next (s.ok (.bytes (frame type seq payload)))

/-- VINFO.FORMAT (R185). -/
def execVinfoFormat (uuid : Bytes) (pid pver : BitVec 16) (vendor product : Bytes) (s : State) :
    Host.Outcome State Fault Refusal :=
  match vinfoFault vendor product with
  | some e => .next (s.raise e)
  | none => .next (s.ok (.bytes (vinfoBytes uuid pid pver vendor product)))

end Sys2Proof.Machine
end

