-- ==== Sys2Proof/Machine/BankEncoder.lean ====
section
/-! DEFINITION. The GPIO bank encoder (41_bank_encoder.md). -/

namespace Sys2Proof.Machine

/-- BANK.INIT (R141). -/
def execBankInit (b : BankSel) (drive : DriveStrength) (slew : SlewRate) (hyst : Hysteresis) (bp : BackPower)
    (s : State) : Host.Outcome State Fault Refusal :=
  .next ((s.setBank b (Bank.init b.pinCount drive slew hyst bp)).ok .nothing)

/-- BANK.SET (R142). -/
def execBankSet (b : BankSel) (index : BitVec 8) (fn : GpioFunction) (pull : PullMode) (used : Bool) (s : State) :
    Host.Outcome State Fault Refusal :=
  if (s.bank b).valid then
    match localIndex b index with
    | some k => .next ((s.setBank b ((s.bank b).setPin k ⟨fn, pull, used⟩)).ok .nothing)
    | none => .next (s.raise (.outOfBound b index))
  else .next (s.raise (.bankNotInitialised b))

/-- BANK.ENCODE (R145). -/
def execBankEncode (b : BankSel) (s : State) : Host.Outcome State Fault Refusal :=
  if (s.bank b).valid then .next (s.ok (.bytes (s.bank b).bytes))
  else .next (s.raise (.bankNotInitialised b))

/-- BANK.CHECK (R147). It neither reads nor writes the bank. -/
def execBankCheck (b : BankSel) (indices : Bytes) (s : State) : Host.Outcome State Fault Refusal :=
  match definitionFault b [] indices with
  | some e => .next (s.raise e)
  | none => .next (s.ok .nothing)

end Sys2Proof.Machine
end

