-- ==== Sys2Proof/Machine/PinPacker.lean ====
section
/-! DEFINITION. The GPIO pin bit-field packer (40_pin_packer.md). -/

namespace Sys2Proof.Machine

/-- PIN.PACK (R120). -/
def execPinPack (fn : GpioFunction) (pull : PullMode) (used : Bool) (s : State) : Host.Outcome State Fault Refusal :=
  .next (s.ok (.byte (pack fn.code pull.code (usedCode used))))

end Sys2Proof.Machine
end

