-- ==== Sys2Proof/Machine/StreamBuilder.lean ====
section
/-! DEFINITION. The atom-stream builder and serializer (43_stream_builder.md). -/

namespace Sys2Proof.Machine

/-- STREAM.INIT (R222). -/
def execStreamInit (s : State) : Host.Outcome State Fault Refusal :=
  .next ((s.setStream Stream.empty).ok .nothing)

/-- STREAM.APPEND_VINFO (R224): the strings are checked before the stream is touched. -/
def execStreamAppendVinfo (uuid : Bytes) (pid pver : BitVec 16) (vendor product : Bytes) (s : State) :
    Host.Outcome State Fault Refusal :=
  match vinfoFault vendor product with
  | some e => .next (s.raise e)
  | none => .next (append .vendorInfo (vinfoBytes uuid pid pver vendor product) s)

/-- STREAM.APPEND_GPIO (R225): the payload is the bank's bytes as they are now. -/
def execStreamAppendGpio (b : BankSel) (s : State) : Host.Outcome State Fault Refusal :=
  if (s.bank b).valid then .next (append (mapType b) (s.bank b).bytes s)
  else .next (s.raise (.bankNotInitialised b))

/-- STREAM.APPEND_DTB (R226). -/
def execStreamAppendDtb (payload : Bytes) (s : State) : Host.Outcome State Fault Refusal :=
  .next (append .linuxDtb payload s)

/-- STREAM.APPEND_CUSTOM (R227). -/
def execStreamAppendCustom (payload : Bytes) (s : State) : Host.Outcome State Fault Refusal :=
  .next (append .manufCustomData payload s)

/-- STREAM.SERIALIZE (R232). A stream whose image would not fit `total_length` is one that R35 item 5 excludes, and
`le32` has no value for it (R8): the machine is stuck there (R282; assumption log 6). -/
def execStreamSerialize (s : State) : Host.Outcome State Fault Refusal :=
  if Config.hdrLen + (imageBody s.stream.atoms).length > Config.lenMax then .fault .imageTooLong
  else .next (s.ok (.bytes (image s.stream)))

end Sys2Proof.Machine
end

