-- ==== Sys2Proof/Machine/Dispatch.lean ====
section
/-! DEFINITION. One arm for each instruction: the meaning it calls. -/

namespace Sys2Proof.Machine

/-- What a command does (30_encoding.md R72). -/
def exec (i : Instr) (s : State) : Host.Outcome State Fault Refusal :=
  match i with
  | .pinPack fn pull used => Sys2Proof.Machine.execPinPack fn pull used s
  | .bankInit b drive slew hyst bp => Sys2Proof.Machine.execBankInit b drive slew hyst bp s
  | .bankSet b index fn pull used => Sys2Proof.Machine.execBankSet b index fn pull used s
  | .bankEncode b => Sys2Proof.Machine.execBankEncode b s
  | .bankCheck b indices => Sys2Proof.Machine.execBankCheck b indices s
  | .crc16 bytes => Sys2Proof.Machine.execCrc16 bytes s
  | .atomFrame type seq payload => Sys2Proof.Machine.execAtomFrame type seq payload s
  | .vinfoFormat uuid pid pver vendor product => Sys2Proof.Machine.execVinfoFormat uuid pid pver vendor product s
  | .streamInit => Sys2Proof.Machine.execStreamInit s
  | .streamAppendVinfo uuid pid pver vendor product => Sys2Proof.Machine.execStreamAppendVinfo uuid pid pver vendor product s
  | .streamAppendGpio b => Sys2Proof.Machine.execStreamAppendGpio b s
  | .streamAppendDtb payload => Sys2Proof.Machine.execStreamAppendDtb payload s
  | .streamAppendCustom payload => Sys2Proof.Machine.execStreamAppendCustom payload s
  | .streamSerialize => Sys2Proof.Machine.execStreamSerialize s

end Sys2Proof.Machine
end

