-- ==== Sys2Proof/Machine/Step.lean ====
section
/-! DEFINITION. One step of the machine: the host's next input. -/

namespace Sys2Proof.Machine

/-- One step (20_memory.md R58): the host's next input takes effect whole. A command is decoded (R101) and executed, or
answered with the error its decoding raises; a reset resets the block (R300); with nothing issued the block is idle and
its state stays as it is (R280). -/
def step (s : State) : Host.Outcome State Fault Refusal :=
  match s.take with
  | none => .next s
  | some (.reset, s') => .next s'.applyReset
  | some (.command c, s') =>
    match decode c with
    | .ok i => exec i s'
    | .error e => .next (s'.raise e)

/-- The state in which the opcode-table word `w` of `nbits` bits is the next command, with the DATA strings
`tableData` gives it (assumption log 2). -/
def State.withFetchWord (s : State) (nbits w : Nat) : State := s.issue (tableCommand nbits w)

end Sys2Proof.Machine
end

