-- ==== Sys2Proof/Safety.lean ====
section
/-! DEFINITION. The invariants of 10_state.md R35, what a safe run is, and the runs the claims speak of. R29 needs no
predicate: a bank register set holds only legal values by its type. -/

namespace Sys2Proof.Machine

/-- From ordering state `last`, the ordering table accepts the types one after another (R220, R221). -/
def acceptsFrom (last : Option AtomType) : List AtomType → Bool
  | [] => true
  | t :: rest => decide (t ∈ acceptRow last) && acceptsFrom (some t) rest

/-- The five invariants of the stream state (R35), in the rule's order. -/
abbrev Stream.Wf (st : Stream) : Prop :=
  st.count.toNat = st.atoms.length ∧
  st.atoms.map (fun a => a.seq.toNat) = List.range st.atoms.length ∧
  st.last = st.atoms.getLast?.map Atom.type ∧
  acceptsFrom none (st.atoms.map Atom.type) = true ∧
  totalLen st.atoms ≤ Config.lenMax

/-- The invariant of the state (R29, R35). -/
abbrev State.Inv (s : State) : Prop := s.stream.Wf

/-- A run of `n` steps is safe: it ends in a next state, with no fault and no refusal. -/
def SafeRun (n : Nat) (s : State) : Prop := ∃ t, Sys2Proof.core.run n s = .next t

/-- The state after reset once the host has issued `events`. -/
def State.resetWith (events : List HostEvent) : State := { State.reset with pending := events }

end Sys2Proof.Machine
end

