-- ==== Sys2Proof/Certificates/Slice0/Obligations.lean ====
section
/-! DEFINITION. The statements for the provers. Each docstring names the rule of spec/ it formalises. The definitions
under `Sys2Proof.Claims` write down, apart from the model, what the spec's tables and layouts say, so that a statement
does not repeat the model's own definition. -/

namespace Sys2Proof.Claims

open Sys2Proof.Machine

/-- A row of spec/opcode_table.json: its match, its mask and its DATA count. -/
structure Row where
  bits  : BitVec 40
  mask  : BitVec 40
  count : Nat
deriving DecidableEq, Repr

/-- The 14 rows of spec/opcode_table.json, in its order. -/
def rows : List Row := [
  ⟨0x0100000000#40, 0xFFFFFFFEC8#40, 0⟩, ⟨0x1000000000#40, 0xFFFEFFFC00#40, 0⟩, ⟨0x1100000000#40, 0xFFFE00FEC8#40, 0⟩,
  ⟨0x1200000000#40, 0xFFFEFFFFFF#40, 0⟩, ⟨0x1300000000#40, 0xFFFEFFFFFF#40, 1⟩, ⟨0x2000000000#40, 0xFFFFFFFFFF#40, 1⟩,
  ⟨0x2100000000#40, 0xFF00000000#40, 1⟩, ⟨0x2200000000#40, 0xFF00000000#40, 3⟩, ⟨0x3000000000#40, 0xFFFFFFFFFF#40, 0⟩,
  ⟨0x3100000000#40, 0xFF00000000#40, 3⟩, ⟨0x3200000000#40, 0xFFFEFFFFFF#40, 0⟩, ⟨0x3300000000#40, 0xFFFFFFFFFF#40, 1⟩,
  ⟨0x3400000000#40, 0xFFFFFFFFFF#40, 1⟩, ⟨0x3500000000#40, 0xFFFFFFFFFF#40, 0⟩]

/-- A word matches a row (R101). -/
abbrev Row.matches (r : Row) (w : BitVec 40) : Prop := w &&& r.mask = r.bits

/-- The row the decoder's opcode map gives an opcode: its value in OPC, its format's must-be-zero bits under all eight OPC
bits, its DATA count (R72, R101). -/
def rowOf (o : Opcode) : Row := ⟨o.value ++ 0#32, 0xFF#8 ++ o.format.mustBeZero, o.dataCount⟩

/-- The opcode values R73 lists as unassigned. -/
abbrev unassigned (v : Nat) : Prop :=
  v = 0x00 ∨ (0x02 ≤ v ∧ v ≤ 0x0F) ∨ (0x14 ≤ v ∧ v ≤ 0x1F) ∨ (0x23 ≤ v ∧ v ≤ 0x2F) ∨ (0x36 ≤ v ∧ v ≤ 0xFF)

/-- OPC of a command word (R70). -/
abbrev opc (w : BitVec 40) : BitVec 8 := w.extractLsb' 32 8

/-- IMM of a command word (R70). -/
abbrev imm (w : BitVec 40) : BitVec 32 := w.extractLsb' 0 32

/-- The code fields of a BANK.INIT word that hold a code with no value, with their records (R76, R91). -/
def badInitCodes (w : BitVec 40) : List (OperandField × Nat) :=
  [(OperandField.dr, (w.extractLsb' 0 4).toNat)].filter (fun r => 9 ≤ r.2) ++
  [(OperandField.sl, (w.extractLsb' 4 2).toNat), (OperandField.hy, (w.extractLsb' 6 2).toNat),
    (OperandField.bp, (w.extractLsb' 8 2).toNat)].filter (fun r => r.2 = 3)

/-- The state in which the command just taken was answered with `r` and nothing else changed. -/
abbrev answered (s : State) (r : Response) : State := { s with response := some r }

/-- The value of a little-endian field (R51). -/
def leNat : Bytes → Nat
  | [] => 0
  | b :: rest => b.toNat + 256 * leNat rest

/-- The global index of local index 0 of a bank (R140). -/
def base : BankSel → Nat
  | .bank0 => 0
  | .bank1 => 28

/-- The range of indices a definition of bank `b` may configure (R148). -/
def assignable : BankSel → Nat × Nat
  | .bank0 => (2, 27)
  | .bank1 => (28, 45)

/-- A bank definition that breaks no policy: every index assignable, none twice (R147). -/
abbrev goodDefinition (b : BankSel) (l : Bytes) : Prop :=
  (∀ i ∈ l, (assignable b).1 ≤ i.toNat ∧ i.toNat ≤ (assignable b).2) ∧ l.Nodup

/-- The MSB-first form of the CRC that R180 describes: polynomial 0x8005, `n` passes. -/
def msbShifts : Nat → BitVec 16 → BitVec 16
  | 0, c => c
  | n + 1, c => msbShifts n (if c.msb then (c <<< 1) ^^^ 0x8005#16 else c <<< 1)

/-- The MSB-first CRC of a byte string, initial value 0 (R180). -/
def msbCrc (l : Bytes) : BitVec 16 :=
  l.foldl (fun (c : BitVec 16) (b : BitVec 8) => msbShifts 8 (c ^^^ (b.setWidth 16 <<< 8))) 0#16

/-- The mask column of the ordering table (R220). -/
def acceptMask : Option AtomType → BitVec 5
  | none => 0x01#5
  | some .vendorInfo => 0x02#5
  | some .gpioBank0Map => 0x1C#5
  | some .linuxDtb => 0x18#5
  | some .manufCustomData => 0x18#5
  | some .gpioBank1Map => 0x00#5

/-- The position of an atom type's bit in that mask: its tag less 1 (R220). -/
def maskBit : AtomType → Nat
  | .vendorInfo => 0
  | .gpioBank0Map => 1
  | .linuxDtb => 2
  | .manufCustomData => 3
  | .gpioBank1Map => 4

/-- The ordering state's value of LAST (R32). -/
def lastValue : Option AtomType → BitVec 3
  | none => 0#3
  | some .vendorInfo => 1#3
  | some .gpioBank0Map => 2#3
  | some .linuxDtb => 3#3
  | some .manufCustomData => 4#3
  | some .gpioBank1Map => 5#3

/-- `APPEND(t, p)` is what the append command `i` comes to in `s`: its payload is built without error (R223 to
R227). -/
def Attempts (i : Instr) (s : State) (t : AtomType) (p : Bytes) : Prop :=
  match i with
  | .streamAppendVinfo uuid pid pver vendor product =>
    vendor.length ≤ 255 ∧ product.length ≤ 255 ∧ t = .vendorInfo ∧ p = vinfoBytes uuid pid pver vendor product
  | .streamAppendGpio .bank0 => s.bank0.valid = true ∧ t = .gpioBank0Map ∧ p = s.bank0.bytes
  | .streamAppendGpio .bank1 => s.bank1.valid = true ∧ t = .gpioBank1Map ∧ p = s.bank1.bytes
  | .streamAppendDtb payload => t = .linuxDtb ∧ p = payload
  | .streamAppendCustom payload => t = .manufCustomData ∧ p = payload
  | _ => False

/-- The length of the image with one more payload `p`, totalled over every stored atom (R36, R230; where COUNT is not their
number, the model's choice, assumption log 15). -/
def lengthWith (s : State) (p : Bytes) : Nat :=
  12 + (s.stream.atoms.map fun a => a.payload.length + 10).sum + (p.length + 10)

/-- The instruction is one of the four append commands. -/
def isAppend : Instr → Bool
  | .streamAppendVinfo _ _ _ _ _ => true
  | .streamAppendGpio _ => true
  | .streamAppendDtb _ => true
  | .streamAppendCustom _ => true
  | _ => false

/-- The instruction is one of the seven commands with no state writes (R56). -/
def isPure : Instr → Bool
  | .pinPack _ _ _ => true
  | .bankEncode _ => true
  | .bankCheck _ _ => true
  | .crc16 _ => true
  | .atomFrame _ _ _ => true
  | .vinfoFormat _ _ _ _ _ => true
  | .streamSerialize => true
  | _ => false

/-- The "raised by" column of R271, for the errors of commands that decode. -/
def raisedBy (e : Error) (i : Instr) : Prop :=
  match e with
  | .outOfBound _ _ => ∃ b k f p u, i = .bankSet b k f p u
  | .range _ _ _ _ => ∃ b l, i = .bankCheck b l
  | .duplicate _ => ∃ b l, i = .bankCheck b l
  | .reservedIndex _ => ∃ b l, i = .bankCheck b l
  | .orderingViolation _ _ _ => isAppend i = true
  | .oversizeString _ _ => (∃ u a b v p, i = .vinfoFormat u a b v p) ∨ ∃ u a b v p, i = .streamAppendVinfo u a b v p
  | .atomCountOverflow _ => isAppend i = true
  | .lengthOverflow _ => isAppend i = true ∨ ∃ t q p, i = .atomFrame t q p
  | .bankNotInitialised _ =>
    (∃ b k f p u, i = .bankSet b k f p u) ∨ (∃ b, i = .bankEncode b) ∨ ∃ b, i = .streamAppendGpio b
  | .illegalOperand _ _ => False
  | .illegalCommand _ => False

/-- Two states no command can tell apart: they differ at most in the fields of banks with VALID = 0 (R40). -/
def SameObservable (s s' : State) : Prop :=
  s.stream = s'.stream ∧ s.pending = s'.pending ∧ s.response = s'.response ∧
  (s.bank0.valid = s'.bank0.valid ∧ (s.bank0.valid = true → s.bank0 = s'.bank0)) ∧
  (s.bank1.valid = s'.bank1.valid ∧ (s.bank1.valid = true → s.bank1 = s'.bank1))

/-- The type sequences of R237: the prefixes of the words of `1 2 3? 4* 5?`. -/
def Language (ts : List AtomType) : Prop :=
  ts = [] ∨ ts = [.vendorInfo] ∨
  ∃ (dtb : Bool) (n : Nat) (bank1 : Bool),
    ts = [.vendorInfo, .gpioBank0Map] ++ (if dtb then [.linuxDtb] else []) ++
      List.replicate n .manufCustomData ++ (if bank1 then [.gpioBank1Map] else [])

end Sys2Proof.Claims

open Sys2Proof Sys2Proof.Machine Sys2Proof.Claims

/-! ### Encoding -/

/-- Decoding the command that spells a well-formed instruction gives that instruction back, with every operand at every
value (R70, R72, R74 to R80, R101). -/
def Obligations.DecodeOfEncodeIsIdentity : Prop :=
  ∀ i : Instr, i.wellFormed = true → decode (encode i) = .ok i

/-- A command that decodes is exactly the one that spells its instruction, and the instruction is well-formed: no bit
of a word and no DATA string is ignored (R81, R82, R101). -/
def Obligations.EncodeOfDecodeIsIdentity : Prop :=
  ∀ (c : Command) (i : Instr), decode c = .ok i → encode i = c ∧ i.wellFormed = true

/-- Which commands are well-formed, read off the opcode table: the word matches a row and the DATA count is the row's,
the UUID has 16 bytes, and every code has a value (R101). -/
def Obligations.CommandDecodesIffTableRowAdmitsIt : Prop :=
  ∀ c : Command, (∃ i, decode c = .ok i) ↔
    (∃ r ∈ rows, r.matches c.word ∧ c.data.length = r.count) ∧
    (opc c.word = 0x22#8 ∨ opc c.word = 0x31#8 → (c.data.getD 0 []).length = 16) ∧
    (opc c.word = 0x10#8 → (c.word.extractLsb' 0 4).toNat ≤ 8 ∧ (c.word.extractLsb' 4 2).toNat ≤ 2 ∧
      (c.word.extractLsb' 6 2).toNat ≤ 2 ∧ (c.word.extractLsb' 8 2).toNat ≤ 2) ∧
    (opc c.word = 0x21#8 → 1 ≤ (c.word.extractLsb' 0 16).toNat ∧ (c.word.extractLsb' 0 16).toNat ≤ 5)

/-- The decoder's opcode map is the opcode table: the value of each opcode, the must-be-zero bits of its format and its
DATA count are its row's match, mask and count. And no word matches two opcodes: none has the value of both in OPC and no
must-be-zero bit of either format set (R101). -/
def Obligations.NoWordMatchesTwoRows : Prop :=
  [Opcode.pinPack, .bankInit, .bankSet, .bankEncode, .bankCheck, .crc16, .atomFrame, .vinfoFormat, .streamInit,
    .streamAppendVinfo, .streamAppendGpio, .streamAppendDtb, .streamAppendCustom, .streamSerialize].map rowOf = rows ∧
  ∀ (w : BitVec 40) (o o' : Opcode), (rowOf o).matches w → (rowOf o').matches w → o = o'

/-- Words written out from the formats of R74 to R80 decode to the commands they stand for (95_test_vectors.md L3). -/
def Obligations.SpecWordsDecode : Prop :=
  decode ⟨0b00000001_00000000000000000000000_1_00_11_0_111#40, []⟩ = .ok (.pinPack .alt3 .none true) ∧
  decode ⟨0b00010000_0000000_0_00000000000000_10_10_01_0100#40, []⟩ =
    .ok (.bankInit .bank0 .ma8 .rateLimiting .enable .amp2) ∧
  decode ⟨0b00010001_0000000_1_00101101_0000000_0_00_00_0_010#40, []⟩ =
    .ok (.bankSet .bank1 45#8 .alt5 .default false) ∧
  decode ⟨0b00100001_0000000000000010_0000000000000011#40, [[]]⟩ = .ok (.atomFrame .linuxDtb 2#16 []) ∧
  decode ⟨0b00110010_0000000_1_000000000000000000000000#40, []⟩ = .ok (.streamAppendGpio .bank1) ∧
  decode ⟨0b00110101_00000000000000000000000000000000#40, []⟩ = .ok .streamSerialize

/-- The code tables of R84 to R90. -/
def Obligations.CodeTablesAreTheSpecs : Prop :=
  [GpioFunction.input, .output, .alt5, .alt4, .alt0, .alt1, .alt2, .alt3].map GpioFunction.code =
    [0#3, 1#3, 2#3, 3#3, 4#3, 5#3, 6#3, 7#3] ∧
  [PullMode.default, .up, .down, .none].map PullMode.code = [0#2, 1#2, 2#2, 3#2] ∧
  [DriveStrength.default, .ma2, .ma4, .ma6, .ma8, .ma10, .ma12, .ma14, .ma16].map DriveStrength.code =
    [0#4, 1#4, 2#4, 3#4, 4#4, 5#4, 6#4, 7#4, 8#4] ∧
  [SlewRate.default, .rateLimiting, .noLimit].map SlewRate.code = [0#2, 1#2, 2#2] ∧
  [Hysteresis.default, .disable, .enable].map Hysteresis.code = [0#2, 1#2, 2#2] ∧
  [BackPower.none, .amp1_3, .amp2].map BackPower.code = [0#2, 1#2, 2#2] ∧
  [AtomType.vendorInfo, .gpioBank0Map, .linuxDtb, .manufCustomData, .gpioBank1Map].map AtomType.tag =
    [1#16, 2#16, 3#16, 4#16, 5#16]

/-! ### Steps and the decoder's errors -/

/-- A command that decodes is performed by its rule, and one that does not is answered with its error; the command is
taken from the host's inputs (R58, R101). -/
def Obligations.StepRunsDecodedCommand : Prop :=
  ∀ (s : State) (c : Command) (rest : List HostEvent), s.pending = .command c :: rest →
    (∀ i, decode c = .ok i → step s = exec i { s with pending := rest }) ∧
    (∀ e, decode c = .error e → step s = .next (answered { s with pending := rest } (.error e)))

/-- An unassigned opcode is answered with ILLEGAL_COMMAND and writes no state; there are 242 of them (R73). -/
def Obligations.UnassignedOpcodeIsIllegalCommand : Prop :=
  (∀ (s : State) (c : Command) (rest : List HostEvent), s.pending = .command c :: rest →
    unassigned (opc c.word).toNat →
    step s = .next (answered { s with pending := rest } (.error (.illegalCommand (opc c.word))))) ∧
  ((List.range 256).filter fun v => decide (unassigned v)).length = 242

/-- A must-be-zero bit of the opcode's format that is 1 is answered with ILLEGAL_OPERAND(reserved, IMM) and writes no
state, whatever the DATA strings are (R81, R101). -/
def Obligations.MustBeZeroBitIsIllegalOperand : Prop :=
  ∀ (s : State) (c : Command) (rest : List HostEvent), s.pending = .command c :: rest →
    ∀ r ∈ rows, opc c.word = opc r.bits → imm c.word &&& imm r.mask ≠ 0#32 →
    step s = .next (answered { s with pending := rest } (.error (.illegalOperand .reserved (imm c.word).toNat)))

/-- A wrong DATA count, and with the right count a UUID that is not 16 bytes, is answered with ILLEGAL_OPERAND and
writes no state (R82). That the count comes first is the model's reading (assumption log 4). -/
def Obligations.WrongDataIsIllegalOperand : Prop :=
  ∀ (s : State) (c : Command) (rest : List HostEvent), s.pending = .command c :: rest →
    ∀ r ∈ rows, r.matches c.word →
    (c.data.length ≠ r.count →
      step s = .next (answered { s with pending := rest } (.error (.illegalOperand .data c.data.length)))) ∧
    (c.data.length = r.count → (opc c.word = 0x22#8 ∨ opc c.word = 0x31#8) → (c.data.getD 0 []).length ≠ 16 →
      step s = .next (answered { s with pending := rest }
        (.error (.illegalOperand .uuid (c.data.getD 0 []).length))))

/-- A code with no value is answered with ILLEGAL_OPERAND naming the operand and the value, and writes no state: in
BANK.INIT one of the offending fields (the only one, if there is one; which of several is a free value, assumption log
3), in ATOM.FRAME the type tag. FN and PL have no illegal codes (R91). -/
def Obligations.CodeWithNoValueIsIllegalOperand : Prop :=
  ∀ (s : State) (c : Command) (rest : List HostEvent), s.pending = .command c :: rest →
    (opc c.word = 0x10#8 → (∃ r ∈ rows, r.matches c.word) → c.data = [] → badInitCodes c.word ≠ [] →
      ∃ f ∈ badInitCodes c.word,
        step s = .next (answered { s with pending := rest } (.error (.illegalOperand f.1 f.2)))) ∧
    (opc c.word = 0x21#8 → c.data.length = 1 →
      ((c.word.extractLsb' 0 16).toNat = 0 ∨ 6 ≤ (c.word.extractLsb' 0 16).toNat) →
      step s = .next (answered { s with pending := rest }
        (.error (.illegalOperand .ty (c.word.extractLsb' 0 16).toNat)))) ∧
    (opc c.word = 0x01#8 ∨ opc c.word = 0x11#8 → (∃ r ∈ rows, r.matches c.word) → c.data = [] →
      ∃ i, decode c = .ok i)

/-- With nothing issued the block is idle and its state survives unchanged (R280). -/
def Obligations.IdleStepKeepsState : Prop :=
  ∀ s : State, s.pending = [] → step s = .next s

/-! ### Reset -/

/-- What reset leaves (R39). -/
def Obligations.ResetStateIsEmptyAndInvalid : Prop :=
  State.reset.bank0.valid = false ∧ State.reset.bank1.valid = false ∧ State.reset.stream.last = none ∧
  State.reset.stream.count = 0#16 ∧ State.reset.stream.atoms = []

/-- The reset event sets both banks invalid and the stream empty from every state, and gives no response (R300). -/
def Obligations.ResetEventResetsTheBlock : Prop :=
  ∀ (s : State) (rest : List HostEvent), s.pending = .reset :: rest →
    ∃ t, step s = .next t ∧ t.bank0.valid = false ∧ t.bank1.valid = false ∧
      t.stream = ⟨none, 0#16, []⟩ ∧ t.response = none ∧ t.pending = rest

/-! ### Invariants and whole-machine rules -/

/-- The stream invariants hold after reset (R35). -/
def Obligations.InvariantHoldsAtReset : Prop := State.reset.Inv

/-- Every step keeps the five stream invariants, from every state that has them: COUNT is the number of atoms, every SEQ
is its index, LAST is the last type, the types are accepted by the ordering table, and the image fits its length field
(R35). -/
def Obligations.StepKeepsStreamInvariants : Prop :=
  ∀ s t : State, s.Inv → step s = .next t → t.Inv

/-- From a state with the invariants every run, of any length and with any inputs of the host, goes on: no fault and no
refusal (R232, R270, R282). -/
def Obligations.EveryRunFromInvariantIsSafe : Prop :=
  ∀ (n : Nat) (s : State), s.Inv → SafeRun n s

/-- A command answered with an error writes no block state and leaves the block ready for the next command (R272). -/
def Obligations.ErrorsWriteNoState : Prop :=
  ∀ (s t : State) (e : Error), step s = .next t → t.response = some (.error e) →
    t.bank0 = s.bank0 ∧ t.bank1 = s.bank1 ∧ t.stream = s.stream ∧ t.pending = s.pending.tail

/-- No command reads the response of an earlier one: a step that takes an input does the same whatever the last response
was (R38, R236). -/
def Obligations.EarlierResponseIsNeverRead : Prop :=
  ∀ (s : State) (r : Option Response), s.pending ≠ [] → step { s with response := r } = step s

/-- Every command that answers a next state writes the response, and takes nothing from the host's inputs beyond itself
(R38, R71). -/
def Obligations.EveryCommandAnswers : Prop :=
  ∀ (i : Instr) (s t : State), exec i s = .next t → t.response.isSome = true ∧ t.pending = s.pending

/-- The fields of an invalid bank are never observed: two states that differ in them alone step alike and differ in them
alone afterwards (R40). So nothing rests on the values the model gives those fields at reset (assumption log 5). -/
def Obligations.InvalidBankFieldsAreUnobservable : Prop :=
  ∀ s s' t : State, SameObservable s s' → step s = .next t → ∃ t', step s' = .next t' ∧ SameObservable t t'

/-- Each status is raised only by the commands R271 names for it, and the statuses of the decoder by none that
decodes. -/
def Obligations.ErrorsAreRaisedByTheirCommandsOnly : Prop :=
  ∀ (i : Instr) (s t : State) (e : Error), exec i s = .next t → t.response = some (.error e) → raisedBy e i

/-- The status codes of R271; a response is OK exactly when its status is 0x00, and codes 0x0C to 0xFF are never
returned. -/
def Obligations.StatusCodesAreTheSpecs : Prop :=
  (∀ b i, (Error.outOfBound b i).status = 0x01#8) ∧ (∀ i b lo hi, (Error.range i b lo hi).status = 0x02#8) ∧
  (∀ i, (Error.duplicate i).status = 0x03#8) ∧ (∀ i, (Error.reservedIndex i).status = 0x04#8) ∧
  (∀ o p a, (Error.orderingViolation o p a).status = 0x05#8) ∧
  (∀ f n, (Error.oversizeString f n).status = 0x06#8) ∧ (∀ n, (Error.atomCountOverflow n).status = 0x07#8) ∧
  (∀ n, (Error.lengthOverflow n).status = 0x08#8) ∧ (∀ b, (Error.bankNotInitialised b).status = 0x09#8) ∧
  (∀ f v, (Error.illegalOperand f v).status = 0x0A#8) ∧ (∀ o, (Error.illegalCommand o).status = 0x0B#8) ∧
  ∀ r : Response, r.status.toNat ≤ 0x0B ∧ (r.status = 0x00#8 ↔ ∃ v, r = .ok v)

/-- A bank register set changes only by BANK.INIT or BANK.SET of that bank (R22 to R28). -/
def Obligations.OnlyBankCommandsWriteABank : Prop :=
  ∀ (i : Instr) (s t : State) (b : BankSel), exec i s = .next t → t.bank b ≠ s.bank b →
    (∃ dr sl hy bp, i = .bankInit b dr sl hy bp) ∨ ∃ k f p u, i = .bankSet b k f p u

/-- VALID is set by BANK.INIT of that bank and by nothing else, and no command clears it (R22). -/
def Obligations.ValidIsSetByBankInitAlone : Prop :=
  ∀ (i : Instr) (s t : State) (b : BankSel), exec i s = .next t →
    ((t.bank b).valid = true ↔ (s.bank b).valid = true ∨ ∃ dr sl hy bp, i = .bankInit b dr sl hy bp)

/-- No command but STREAM.INIT removes, reorders or rewrites an atom: the store keeps what it held and gains at most one
atom at its end, and only by an append (R34). -/
def Obligations.AtomStoreOnlyGrows : Prop :=
  ∀ (i : Instr) (s t : State), exec i s = .next t → i ≠ .streamInit →
    (t.stream = s.stream ∨ isAppend i = true) ∧
    ∃ more, t.stream.atoms = s.stream.atoms ++ more ∧ more.length ≤ 1

/-- The seven commands with no state writes leave the block state as it is, and repeating one gives the same answer
(R56, R236, R238). -/
def Obligations.PureCommandsRepeat : Prop :=
  ∀ (i : Instr) (s t : State), isPure i = true → exec i s = .next t →
    (∃ r, t = answered s r) ∧ exec i t = .next t

/-- After GpioBank1Map the stream is closed: every append command answers an error and writes no state (R220). -/
def Obligations.Bank1MapEndsTheStream : Prop :=
  ∀ (i : Instr) (s : State), isAppend i = true → s.stream.last = some .gpioBank1Map →
    ∃ e, exec i s = .next (answered s (.error e))

/-- The type sequences a stream can hold are exactly the prefixes of the words of `1 2 3? 4* 5?` of at most 65535 atoms:
every stream with the invariants holds such a sequence, and the host can bring about every one from reset (R237). -/
def Obligations.StreamsHoldExactlyTheLanguage : Prop :=
  (∀ s : State, s.Inv → Language (s.stream.atoms.map Atom.type) ∧ s.stream.atoms.length ≤ 65535) ∧
  ∀ ts : List AtomType, Language ts → ts.length ≤ 65535 →
    ∃ (events : List HostEvent) (t : State),
      Sys2Proof.core.run events.length (State.resetWith events) = .next t ∧ t.stream.atoms.map Atom.type = ts

/-! ### Pin packer -/

/-- PIN.PACK answers the byte with the fsel code in bits 2:0, 0 in bits 4:3, the pull code in bits 6:5 and the used flag
in bit 7, and writes no state (R120, R121, R123). -/
def Obligations.PinPackPacksEachField : Prop :=
  ∀ (fn : GpioFunction) (pull : PullMode) (used : Bool) (s : State), ∃ x : BitVec 8,
    exec (.pinPack fn pull used) s = .next (answered s (.ok (.byte x))) ∧
    x.extractLsb' 0 3 = fn.code ∧ x.extractLsb' 3 2 = 0#2 ∧ x.extractLsb' 5 2 = pull.code ∧ x.getLsbD 7 = used

/-- The bytes PIN.PACK answers are exactly the 64 bytes with bits 4:3 zero, no two triples give one byte, and no pin byte
of a bank payload lies outside that set (R124). -/
def Obligations.PackedBytesAreExactlyThoseWithReservedBitsZero : Prop :=
  (∀ (s : State) (x : BitVec 8),
    (∃! i : GpioFunction × PullMode × Bool,
      exec (.pinPack i.1 i.2.1 i.2.2) s = .next (answered s (.ok (.byte x)))) ↔ x.extractLsb' 3 2 = 0#2) ∧
  (∀ (n : Nat) (bk : Bank n), ∀ x ∈ bk.bytes.drop 2, x.extractLsb' 3 2 = 0#2)

/-! ### Bank encoder -/

/-- BANK.INIT writes every field of its bank, every pin to (Input, Default, unused), and leaves the other bank and the
stream alone (R141). -/
def Obligations.BankInitWritesTheWholeBank : Prop :=
  ∀ (b : BankSel) (drive : DriveStrength) (slew : SlewRate) (hyst : Hysteresis) (bp : BackPower) (s : State),
    ∃ t, exec (.bankInit b drive slew hyst bp) s = .next t ∧ (t.bank b).valid = true ∧ (t.bank b).drive = drive ∧
      (t.bank b).slew = slew ∧ (t.bank b).hyst = hyst ∧ (t.bank b).bp = bp ∧
      (∀ k : Fin b.pinCount, (t.bank b).pins[k] = ⟨.input, .default, false⟩) ∧
      t.bank b.other = s.bank b.other ∧ t.stream = s.stream ∧ t.pending = s.pending ∧
      t.response = some (.ok .nothing)

/-- BANK.SET on an initialised bank with an index of its span writes the one pin at the local index and nothing else:
not another pin, not a control field, not the other bank, not the stream (R142). -/
def Obligations.BankSetWritesOnePin : Prop :=
  ∀ (b : BankSel) (index : BitVec 8) (fn : GpioFunction) (pull : PullMode) (used : Bool) (s : State),
    (s.bank b).valid = true → base b ≤ index.toNat → index.toNat < base b + b.pinCount →
    ∃ t, exec (.bankSet b index fn pull used) s = .next t ∧
      (∀ k : Fin b.pinCount, (t.bank b).pins[k] =
        if base b + k.val = index.toNat then ⟨fn, pull, used⟩ else (s.bank b).pins[k]) ∧
      { t.bank b with pins := (s.bank b).pins } = s.bank b ∧
      t.bank b.other = s.bank b.other ∧ t.stream = s.stream ∧ t.pending = s.pending ∧
      t.response = some (.ok .nothing)

/-- BANK.SET, BANK.ENCODE and STREAM.APPEND_GPIO of a bank with VALID = 0 are answered with BANK_NOT_INITIALISED, before
any other check of theirs, and write no state (R22, R273). -/
def Obligations.InvalidBankIsNotUsed : Prop :=
  ∀ (b : BankSel) (index : BitVec 8) (fn : GpioFunction) (pull : PullMode) (used : Bool) (s : State),
    (s.bank b).valid = false → ∀ i ∈ [Instr.bankSet b index fn pull used, .bankEncode b, .streamAppendGpio b],
    exec i s = .next (answered s (.error (.bankNotInitialised b)))

/-- BANK.SET on an initialised bank with an index outside its span is answered with OUT_OF_BOUND and writes no state;
on bank 1 that holds of every index below 28 (R142, R143). -/
def Obligations.BankSetOutsideSpanIsOutOfBound : Prop :=
  ∀ (b : BankSel) (index : BitVec 8) (fn : GpioFunction) (pull : PullMode) (used : Bool) (s : State),
    (s.bank b).valid = true → (index.toNat < base b ∨ base b + b.pinCount ≤ index.toNat) →
    exec (.bankSet b index fn pull used) s = .next (answered s (.error (.outOfBound b index)))

/-- BANK.SET detects no duplicate: a second BANK.SET of a pin leaves what it would have left without the first, both
succeed where the bank and the index allow it, and the pin holds the last value written (R144). -/
def Obligations.LastBankSetWins : Prop :=
  ∀ (b : BankSel) (index : BitVec 8) (fn fn' : GpioFunction) (pull pull' : PullMode) (used used' : Bool) (s : State),
    (∀ t, exec (.bankSet b index fn pull used) s = .next t →
      exec (.bankSet b index fn' pull' used') t = exec (.bankSet b index fn' pull' used') s) ∧
    ((s.bank b).valid = true → base b ≤ index.toNat → index.toNat < base b + b.pinCount →
      ∃ t u, exec (.bankSet b index fn pull used) s = .next t ∧ t.response = some (.ok .nothing) ∧
        exec (.bankSet b index fn' pull' used') t = .next u ∧ u.response = some (.ok .nothing) ∧
        ∀ k : Fin b.pinCount, base b + k.val = index.toNat → (u.bank b).pins[k] = ⟨fn', pull', used'⟩)

/-- BANK.ENCODE of an initialised bank answers `2 + N_b` bytes: the control byte, the back-power byte and one packed byte
a pin in local index order, each read as a number, and writes no state (R145, R30, R31). -/
def Obligations.BankEncodeAnswersThePayload : Prop :=
  ∀ (b : BankSel) (s : State), (s.bank b).valid = true →
    ∃ l : Bytes, exec (.bankEncode b) s = .next (answered s (.ok (.bytes l))) ∧ l.length = 2 + b.pinCount ∧
      (l.map BitVec.toNat)[0]? = some ((s.bank b).drive.code.toNat + 16 * (s.bank b).slew.code.toNat +
        64 * (s.bank b).hyst.code.toNat) ∧
      (l.map BitVec.toNat)[1]? = some (s.bank b).bp.code.toNat ∧
      ∀ k : Fin b.pinCount, (l.map BitVec.toNat)[2 + k.val]? =
        some ((s.bank b).pins[k].fn.code.toNat + 32 * (s.bank b).pins[k].pull.code.toNat +
          (if (s.bank b).pins[k].used then 128 else 0))

/-- A bank's payload has `2 + N_b` bytes, and a freshly initialised bank with every setting Default encodes as that many
zero bytes (R146). -/
def Obligations.DefaultBankEncodesAsZeros : Prop :=
  (∀ (n : Nat) (bk : Bank n), bk.bytes.length = 2 + n) ∧
  ∀ (b : BankSel) (s t : State), exec (.bankInit b .default .default .default .none) s = .next t →
    exec (.bankEncode b) t = .next (answered t (.ok (.bytes (List.replicate (2 + b.pinCount) 0#8))))

/-- BANK.CHECK answers OK exactly on the definitions in which every index is assignable and none stands twice, reading no
bank; on the others it answers an error; it writes no state (R147). -/
def Obligations.BankCheckPassesExactlyGoodDefinitions : Prop :=
  ∀ (b : BankSel) (l : Bytes) (s : State),
    (goodDefinition b l → exec (.bankCheck b l) s = .next (answered s (.ok .nothing))) ∧
    (¬ goodDefinition b l → ∃ e, exec (.bankCheck b l) s = .next (answered s (.error e)))

/-- BANK.CHECK reports the first violation in list order, and of one entry the reserved index before the range before the
duplicate, each with its record (R147, R148, R149). -/
def Obligations.BankCheckReportsTheFirstViolation : Prop :=
  ∀ (b : BankSel) (before after : Bytes) (i : BitVec 8) (s : State), goodDefinition b before →
    (i.toNat < 2 → exec (.bankCheck b (before ++ i :: after)) s = .next (answered s (.error (.reservedIndex i)))) ∧
    (2 ≤ i.toNat → (i.toNat < (assignable b).1 ∨ (assignable b).2 < i.toNat) →
      exec (.bankCheck b (before ++ i :: after)) s =
        .next (answered s (.error (.range i b (assignable b).1 (assignable b).2)))) ∧
    ((assignable b).1 ≤ i.toNat → i.toNat ≤ (assignable b).2 → i ∈ before →
      exec (.bankCheck b (before ++ i :: after)) s = .next (answered s (.error (.duplicate i))))

/-! ### Atom framer -/

/-- CRC16 answers the CRC in the equivalent MSB-first form: bytes bit-reversed, polynomial 0x8005, the result
bit-reversed; it writes no state (R180, R181). That ARC is reflected is the spec's general knowledge (PRESUMED, assumption
log 9). -/
def Obligations.Crc16AgreesWithMsbFirstForm : Prop :=
  ∀ (l : Bytes) (s : State),
    exec (.crc16 l) s = .next (answered s (.ok (.number (msbCrc (l.map BitVec.reverse)).reverse)))

/-- Leading zero bytes do not change the CRC (R181). -/
def Obligations.Crc16IgnoresLeadingZeros : Prop :=
  ∀ (n : Nat) (l : Bytes) (s : State), exec (.crc16 (List.replicate n 0#8 ++ l)) s = exec (.crc16 l) s

/-- ATOM.FRAME answers the frame: type tag, sequence number, declared length `len + 2`, payload, and the CRC of all that
comes before it, in `len + 10` bytes; it writes no state (R183, R184, R97). -/
def Obligations.AtomFrameLaysOutTheFrame : Prop :=
  ∀ (type : AtomType) (seq : BitVec 16) (p : Bytes) (s : State), p.length + 2 ≤ 4294967295 →
    ∃ f : Bytes, exec (.atomFrame type seq p) s = .next (answered s (.ok (.bytes f))) ∧ f.length = p.length + 10 ∧
      leNat (f.take 2) = type.tag.toNat ∧ leNat ((f.drop 2).take 2) = seq.toNat ∧
      leNat ((f.drop 4).take 4) = p.length + 2 ∧ (f.drop 8).take p.length = p ∧
      leNat (f.drop (8 + p.length)) = (crc16 (f.take (8 + p.length))).toNat

/-- ATOM.FRAME answers LENGTH_OVERFLOW when the declared length would not fit, and writes no state (R183). -/
def Obligations.AtomFrameTooLongIsLengthOverflow : Prop :=
  ∀ (type : AtomType) (seq : BitVec 16) (p : Bytes) (s : State), 4294967295 < p.length + 2 →
    exec (.atomFrame type seq p) s = .next (answered s (.error (.lengthOverflow p.length)))

/-- VINFO.FORMAT answers the VendorInfo payload by offset: the UUID reversed, product_id, product_version, the two
string lengths, the strings; it writes no state (R185, R186, R96). -/
def Obligations.VinfoFormatLaysOutThePayload : Prop :=
  ∀ (uuid : Bytes) (pid pver : BitVec 16) (vendor product : Bytes) (s : State),
    uuid.length = 16 → vendor.length ≤ 255 → product.length ≤ 255 →
    ∃ p : Bytes, exec (.vinfoFormat uuid pid pver vendor product) s = .next (answered s (.ok (.bytes p))) ∧
      p.length = 22 + vendor.length + product.length ∧ (∀ j < 16, p[j]? = uuid[15 - j]?) ∧
      leNat ((p.drop 16).take 2) = pid.toNat ∧ leNat ((p.drop 18).take 2) = pver.toNat ∧
      (p[20]?.map BitVec.toNat) = some vendor.length ∧ (p[21]?.map BitVec.toNat) = some product.length ∧
      (p.drop 22).take vendor.length = vendor ∧ p.drop (22 + vendor.length) = product

/-- A vendor or product string of more than 255 bytes is answered with OVERSIZE_STRING, the vendor string first, with no
payload produced and no state written, by VINFO.FORMAT and by STREAM.APPEND_VINFO. Strings of at most 255 bytes succeed
and stand in the payload whole, and no OVERSIZE_STRING arises (R187). -/
def Obligations.OversizeStringIsRefused : Prop :=
  ∀ (uuid : Bytes) (pid pver : BitVec 16) (vendor product : Bytes) (s : State),
    (∀ i ∈ [Instr.vinfoFormat uuid pid pver vendor product, .streamAppendVinfo uuid pid pver vendor product],
      (255 < vendor.length → exec i s = .next (answered s (.error (.oversizeString .vendor vendor.length)))) ∧
      (vendor.length ≤ 255 → 255 < product.length →
        exec i s = .next (answered s (.error (.oversizeString .product product.length)))) ∧
      (vendor.length ≤ 255 → product.length ≤ 255 → ∀ t f n, exec i s = .next t →
        t.response ≠ some (.error (.oversizeString f n)))) ∧
    (uuid.length = 16 → vendor.length ≤ 255 → product.length ≤ 255 →
      ∃ p : Bytes, exec (.vinfoFormat uuid pid pver vendor product) s = .next (answered s (.ok (.bytes p))) ∧
        p.drop 22 = vendor ++ product)

/-! ### Stream builder -/

/-- STREAM.INIT empties the stream in every state and leaves both banks alone (R222). -/
def Obligations.StreamInitEmptiesTheStream : Prop :=
  ∀ s : State, exec .streamInit s =
    .next { s with stream := ⟨none, 0#16, []⟩, response := some (.ok .nothing) }

/-- An append that the ordering table accepts, of a stream with room, adds one atom at the end with SEQ = COUNT,
increments COUNT, sets LAST to its type, answers its sequence number, and writes nothing else. This covers the four
append commands (R223 to R227). -/
def Obligations.AcceptedAppendAddsOneAtom : Prop :=
  ∀ (i : Instr) (s : State) (t : AtomType) (p : Bytes), Attempts i s t p →
    (acceptMask s.stream.last).getLsbD (maskBit t) = true → s.stream.count.toNat < 65535 →
    lengthWith s p ≤ 4294967295 →
    exec i s = .next { s with
      stream := ⟨some t, s.stream.count + 1#16, s.stream.atoms ++ [⟨t, s.stream.count, p⟩]⟩
      response := some (.ok (.number s.stream.count)) }

/-- An append the ordering table does not accept is answered with ORDERING_VIOLATION naming the type, LAST and the
accepted set, before the limits are looked at, and leaves the stream unchanged (R220, R221, R231). -/
def Obligations.OutOfOrderAppendIsRejected : Prop :=
  ∀ (i : Instr) (s : State) (t : AtomType) (p : Bytes), Attempts i s t p →
    (acceptMask s.stream.last).getLsbD (maskBit t) = false →
    exec i s = .next (answered s (.error (.orderingViolation (BitVec.ofNat 16 (maskBit t + 1))
      (lastValue s.stream.last) (acceptMask s.stream.last))))

/-- The append that would add atom number 65536 is answered with ATOM_COUNT_OVERFLOW(65535) and leaves the stream
unchanged (R229). -/
def Obligations.FullStreamIsAtomCountOverflow : Prop :=
  ∀ (i : Instr) (s : State) (t : AtomType) (p : Bytes), Attempts i s t p →
    (acceptMask s.stream.last).getLsbD (maskBit t) = true → s.stream.count.toNat = 65535 →
    exec i s = .next (answered s (.error (.atomCountOverflow 65535)))

/-- An append whose atom would make the image longer than `2^32 - 1` bytes is answered with LENGTH_OVERFLOW and leaves
the stream unchanged (R230). The length totals every stored atom: in a stream whose COUNT is their number, as R35 item 1
says, that is R36's total; in any other it is the model's choice (DESIGN CHOICE, assumption log 15). -/
def Obligations.TooLongStreamIsLengthOverflow : Prop :=
  ∀ (i : Instr) (s : State) (t : AtomType) (p : Bytes), Attempts i s t p →
    (acceptMask s.stream.last).getLsbD (maskBit t) = true → s.stream.count.toNat < 65535 →
    4294967295 < lengthWith s p → exec i s = .next (answered s (.error (.lengthOverflow p.length)))

/-- The five atoms in the document's order get the sequence numbers 0 to 4 (R228). -/
def Obligations.FullSequenceIsNumberedInOrder : Prop :=
  ∀ (uuid : Bytes) (pid pver : BitVec 16) (vendor product dtb custom : Bytes) (s : State),
    s.stream = ⟨none, 0#16, []⟩ → s.bank0.valid = true → s.bank1.valid = true →
    uuid.length = 16 → vendor.length ≤ 255 → product.length ≤ 255 → dtb.length + custom.length ≤ 4294960000 →
    ∃ s1 s2 s3 s4 s5 : State,
      exec (.streamAppendVinfo uuid pid pver vendor product) s = .next s1 ∧ s1.response = some (.ok (.number 0#16)) ∧
      exec (.streamAppendGpio .bank0) s1 = .next s2 ∧ s2.response = some (.ok (.number 1#16)) ∧
      exec (.streamAppendDtb dtb) s2 = .next s3 ∧ s3.response = some (.ok (.number 2#16)) ∧
      exec (.streamAppendCustom custom) s3 = .next s4 ∧ s4.response = some (.ok (.number 3#16)) ∧
      exec (.streamAppendGpio .bank1) s4 = .next s5 ∧ s5.response = some (.ok (.number 4#16))

/-- STREAM.SERIALIZE of a stream with the invariants answers the image: signature, format_version 1, reserved 0, the
number of atoms, the image's own length, then the frame of each stored entry in stream order; it writes no state (R232
to R234, R54, R55). -/
def Obligations.SerializeLaysOutTheImage : Prop :=
  ∀ s : State, s.Inv →
    ∃ img : Bytes, exec .streamSerialize s = .next (answered s (.ok (.bytes img))) ∧
      img.take 4 = [0x52#8, 0x2D#8, 0x50#8, 0x69#8] ∧ img[4]? = some 0x01#8 ∧ img[5]? = some 0x00#8 ∧
      leNat ((img.drop 6).take 2) = s.stream.atoms.length ∧ leNat ((img.drop 8).take 4) = img.length ∧
      img.length = 12 + (s.stream.atoms.map fun a => a.payload.length + 10).sum ∧
      ∃ frames : List Bytes, img.drop 12 = frames.flatten ∧
        List.Forall₂ (fun a f => exec (.atomFrame a.type a.seq a.payload) s = .next (answered s (.ok (.bytes f))))
          s.stream.atoms frames

/-- An image determines its stream: two streams with the invariants that serialize to the same bytes are equal (R54,
R55, R97). -/
def Obligations.ImageDeterminesTheStream : Prop :=
  ∀ (s s' : State) (img : Bytes), s.Inv → s'.Inv →
    exec .streamSerialize s = .next (answered s (.ok (.bytes img))) →
    exec .streamSerialize s' = .next (answered s' (.ok (.bytes img))) → s.stream = s'.stream

/-- In a stream that R35 item 5 excludes, STREAM.SERIALIZE is stuck: the model's choice (assumption log 6), since `le32`
has no value there (R8) and a model gives such a state no meaning (R282). -/
def Obligations.SerializeOfExcludedStreamIsStuck : Prop :=
  ∀ s : State, 4294967295 < 12 + (s.stream.atoms.map fun a => a.payload.length + 10).sum →
    exec .streamSerialize s = .fault .imageTooLong
end

