-- ==== Sys2Proof/Laws/Codes.lean ====
section
/-! SUPPORT. Every code table is a bijection onto the codes that have a value (30_encoding.md R84 to R91). -/

namespace Sys2Proof

@[simp] theorem GpioFunction.ofCode_code (x : GpioFunction) : GpioFunction.ofCode x.code = x := by cases x <;> rfl
@[simp] theorem GpioFunction.code_ofCode (c : BitVec 3) : (GpioFunction.ofCode c).code = c := by
  revert c; decide
@[simp] theorem PullMode.ofCode_code (x : PullMode) : PullMode.ofCode x.code = x := by cases x <;> rfl
@[simp] theorem PullMode.code_ofCode (c : BitVec 2) : (PullMode.ofCode c).code = c := by revert c; decide
@[simp] theorem DriveStrength.ofCode_code (x : DriveStrength) : DriveStrength.ofCode x.code = some x := by
  cases x <;> rfl
@[simp] theorem SlewRate.ofCode_code (x : SlewRate) : SlewRate.ofCode x.code = some x := by cases x <;> rfl
@[simp] theorem Hysteresis.ofCode_code (x : Hysteresis) : Hysteresis.ofCode x.code = some x := by cases x <;> rfl
@[simp] theorem BackPower.ofCode_code (x : BackPower) : BackPower.ofCode x.code = some x := by cases x <;> rfl
@[simp] theorem AtomType.ofTag_tag (x : AtomType) : AtomType.ofTag x.tag = some x := by cases x <;> rfl
@[simp] theorem BankSel.ofCode_code (x : BankSel) : BankSel.ofCode x.code = x := by cases x <;> rfl
@[simp] theorem BankSel.code_ofCode (c : BitVec 1) : (BankSel.ofCode c).code = c := by revert c; decide
@[simp] theorem usedOfCode_usedCode (u : Bool) : usedOfCode (usedCode u) = u := by cases u <;> rfl
@[simp] theorem usedCode_usedOfCode (c : BitVec 1) : usedCode (usedOfCode c) = c := by revert c; decide
@[simp] theorem Opcode.ofValue_value (o : Opcode) : Opcode.ofValue o.value = some o := by cases o <;> rfl

/-- A drive code has a value exactly when it is at most 8 (R86). -/
theorem DriveStrength.ofCode_isSome (c : BitVec 4) : (DriveStrength.ofCode c).isSome = decide (c.toNat ≤ 8) := by
  revert c; decide

/-- A slew code has a value exactly when it is not 3 (R87). -/
theorem SlewRate.ofCode_isSome (c : BitVec 2) : (SlewRate.ofCode c).isSome = decide (c.toNat ≤ 2) := by
  revert c; decide

/-- A hysteresis code has a value exactly when it is not 3 (R88). -/
theorem Hysteresis.ofCode_isSome (c : BitVec 2) : (Hysteresis.ofCode c).isSome = decide (c.toNat ≤ 2) := by
  revert c; decide

/-- A back-power code has a value exactly when it is not 3 (R89). -/
theorem BackPower.ofCode_isSome (c : BitVec 2) : (BackPower.ofCode c).isSome = decide (c.toNat ≤ 2) := by
  revert c; decide

/-- The drive strength of a code has that code. -/
theorem DriveStrength.code_of_ofCode {c : BitVec 4} {x : DriveStrength} (h : DriveStrength.ofCode c = some x) :
    x.code = c := by
  revert h; revert c; cases x <;> decide

/-- The slew rate of a code has that code. -/
theorem SlewRate.code_of_ofCode {c : BitVec 2} {x : SlewRate} (h : SlewRate.ofCode c = some x) : x.code = c := by
  revert h; revert c; cases x <;> decide

/-- The hysteresis of a code has that code. -/
theorem Hysteresis.code_of_ofCode {c : BitVec 2} {x : Hysteresis} (h : Hysteresis.ofCode c = some x) :
    x.code = c := by
  revert h; revert c; cases x <;> decide

/-- The back-power value of a code has that code. -/
theorem BackPower.code_of_ofCode {c : BitVec 2} {x : BackPower} (h : BackPower.ofCode c = some x) : x.code = c := by
  revert h; revert c; cases x <;> decide

/-- The type of a tag has that tag; the tags with a type are 1 to 5 (R90). -/
theorem AtomType.ofTag_eq_some {c : BitVec 16} {x : AtomType} : AtomType.ofTag c = some x ↔ c = x.tag := by
  constructor
  · intro h
    unfold AtomType.ofTag at h
    split at h <;> cases h <;> exact BitVec.eq_of_toNat_eq (by assumption)
  · rintro rfl
    simp

/-- The opcode of a value has that value (R72). -/
theorem Opcode.ofValue_eq_some {v : BitVec 8} {o : Opcode} : Opcode.ofValue v = some o ↔ v = o.value := by
  constructor
  · intro h
    unfold Opcode.ofValue at h
    split at h <;> cases h <;> exact BitVec.eq_of_toNat_eq (by assumption)
  · rintro rfl
    simp

end Sys2Proof
end

