-- ==== Sys2Proof/Laws/PerInstr.lean ====
section
/-! SUPPORT. The family `EncodesInRow`: the command that spells an instruction has its opcode in bits 39:32, no
must-be-zero bit of its format set, and as many DATA strings as its opcode takes (30_encoding.md R72 to R82). -/

namespace Sys2Proof.Laws.EncodesInRow

/-- The statement about one instruction. -/
def Statement (i : Instr) : Prop :=
  (encode i).opc = i.opcode.value ∧ (encode i).imm &&& i.opcode.format.mustBeZero = 0#32 ∧
  (encode i).data.length = i.opcode.dataCount

/-- OPC of an encoded instruction. -/
theorem opc_encode (i : Instr) : (encode i).opc = i.opcode.value := by
  simp only [Command.opc, encode]
  exact BitVec.extractLsb'_append_eq_left

/-- IMM of an encoded instruction. -/
theorem imm_encode (i : Instr) : (encode i).imm = i.imm := by
  simp only [Command.imm, encode]
  exact BitVec.extractLsb'_append_eq_right

/-- Format BS sets no must-be-zero bit (R77). -/
theorem encodeBS_reserved (sel : BitVec 1) (idx : BitVec 8) (fn : BitVec 3) (pl : BitVec 2) (us : BitVec 1) :
    encodeBS sel idx fn pl us &&& Format.BS.mustBeZero = 0#32 := by
  apply BitVec.eq_of_getLsbD_eq
  intro k hk
  interval_cases k <;> simp [encodeBS, place, Format.mustBeZero]

/-- Format BI sets no must-be-zero bit (R76). -/
theorem encodeBI_reserved (sel : BitVec 1) (bp hy sl : BitVec 2) (dr : BitVec 4) :
    encodeBI sel bp hy sl dr &&& Format.BI.mustBeZero = 0#32 := by
  apply BitVec.eq_of_getLsbD_eq
  intro k hk
  interval_cases k <;> simp [encodeBI, place, Format.mustBeZero]

/-- Format P sets no must-be-zero bit (R75). -/
theorem encodeP_reserved (fn : BitVec 3) (pl : BitVec 2) (us : BitVec 1) :
    encodeP fn pl us &&& Format.P.mustBeZero = 0#32 := by
  apply BitVec.eq_of_getLsbD_eq
  intro k hk
  interval_cases k <;> simp [encodeP, place, Format.mustBeZero]

/-- Format B sets no must-be-zero bit (R78). -/
theorem encodeB_reserved (sel : BitVec 1) : encodeB sel &&& Format.B.mustBeZero = 0#32 := by
  revert sel; decide

theorem pinPack (fn : GpioFunction) (pull : PullMode) (used : Bool) : Statement (.pinPack fn pull used) :=
  ⟨opc_encode _, by rw [imm_encode]; exact encodeP_reserved _ _ _, rfl⟩

theorem bankInit (b : BankSel) (drive : DriveStrength) (slew : SlewRate) (hyst : Hysteresis) (bp : BackPower) :
    Statement (.bankInit b drive slew hyst bp) :=
  ⟨opc_encode _, by rw [imm_encode]; exact encodeBI_reserved _ _ _ _ _, rfl⟩

theorem bankSet (b : BankSel) (index : BitVec 8) (fn : GpioFunction) (pull : PullMode) (used : Bool) :
    Statement (.bankSet b index fn pull used) :=
  ⟨opc_encode _, by rw [imm_encode]; exact encodeBS_reserved _ _ _ _ _, rfl⟩

theorem bankEncode (b : BankSel) : Statement (.bankEncode b) :=
  ⟨opc_encode _, by rw [imm_encode]; exact encodeB_reserved _, rfl⟩

theorem bankCheck (b : BankSel) (indices : Bytes) : Statement (.bankCheck b indices) :=
  ⟨opc_encode _, by rw [imm_encode]; exact encodeB_reserved _, rfl⟩

theorem crc16 (bytes : Bytes) : Statement (.crc16 bytes) :=
  ⟨opc_encode _, by rw [imm_encode]; exact BitVec.zero_and, rfl⟩

theorem atomFrame (type : AtomType) (seq : BitVec 16) (payload : Bytes) : Statement (.atomFrame type seq payload) :=
  ⟨opc_encode _, by rw [imm_encode]; exact BitVec.and_zero, rfl⟩

theorem vinfoFormat (uuid : Bytes) (pid pver : BitVec 16) (vendor product : Bytes) :
    Statement (.vinfoFormat uuid pid pver vendor product) :=
  ⟨opc_encode _, by rw [imm_encode]; exact BitVec.and_zero, rfl⟩

theorem streamInit : Statement .streamInit :=
  ⟨opc_encode _, by rw [imm_encode]; exact BitVec.zero_and, rfl⟩

theorem streamAppendVinfo (uuid : Bytes) (pid pver : BitVec 16) (vendor product : Bytes) :
    Statement (.streamAppendVinfo uuid pid pver vendor product) :=
  ⟨opc_encode _, by rw [imm_encode]; exact BitVec.and_zero, rfl⟩

theorem streamAppendGpio (b : BankSel) : Statement (.streamAppendGpio b) :=
  ⟨opc_encode _, by rw [imm_encode]; exact encodeB_reserved _, rfl⟩

theorem streamAppendDtb (payload : Bytes) : Statement (.streamAppendDtb payload) :=
  ⟨opc_encode _, by rw [imm_encode]; exact BitVec.zero_and, rfl⟩

theorem streamAppendCustom (payload : Bytes) : Statement (.streamAppendCustom payload) :=
  ⟨opc_encode _, by rw [imm_encode]; exact BitVec.zero_and, rfl⟩

theorem streamSerialize : Statement .streamSerialize :=
  ⟨opc_encode _, by rw [imm_encode]; exact BitVec.zero_and, rfl⟩

end Sys2Proof.Laws.EncodesInRow
end

