-- ==== Sys2Proof/Laws/Decode.lean ====
section
/-! SUPPORT. For each format of the operand word (30_encoding.md R74 to R80): its fields read back what was placed, and a
word with no must-be-zero bit set is its fields. Then the steps of the decoder (R101), each said once. -/

namespace Sys2Proof

/-! ### Reading a field of an encoded word -/

theorem fields_encodeP (fn : BitVec 3) (pl : BitVec 2) (us : BitVec 1) :
    Imm.fn (encodeP fn pl us) = fn ∧ Imm.pl (encodeP fn pl us) = pl ∧ Imm.us (encodeP fn pl us) = us := by
  refine ⟨?_, ?_, ?_⟩ <;> apply BitVec.eq_of_getLsbD_eq <;> intro k hk <;> interval_cases k <;>
    simp [Imm.fn, Imm.pl, Imm.us, encodeP, place]

theorem fields_encodeBI (sel : BitVec 1) (bp hy sl : BitVec 2) (dr : BitVec 4) :
    Imm.sel (encodeBI sel bp hy sl dr) = sel ∧ Imm.bp (encodeBI sel bp hy sl dr) = bp ∧
    Imm.hy (encodeBI sel bp hy sl dr) = hy ∧ Imm.sl (encodeBI sel bp hy sl dr) = sl ∧
    Imm.dr (encodeBI sel bp hy sl dr) = dr := by
  refine ⟨?_, ?_, ?_, ?_, ?_⟩ <;> apply BitVec.eq_of_getLsbD_eq <;> intro k hk <;> interval_cases k <;>
    simp [Imm.sel, Imm.bp, Imm.hy, Imm.sl, Imm.dr, encodeBI, place]

theorem fields_encodeBS (sel : BitVec 1) (idx : BitVec 8) (fn : BitVec 3) (pl : BitVec 2) (us : BitVec 1) :
    Imm.sel (encodeBS sel idx fn pl us) = sel ∧ Imm.idx (encodeBS sel idx fn pl us) = idx ∧
    Imm.fn (encodeBS sel idx fn pl us) = fn ∧ Imm.pl (encodeBS sel idx fn pl us) = pl ∧
    Imm.us (encodeBS sel idx fn pl us) = us := by
  refine ⟨?_, ?_, ?_, ?_, ?_⟩ <;> apply BitVec.eq_of_getLsbD_eq <;> intro k hk <;> interval_cases k <;>
    simp [Imm.sel, Imm.idx, Imm.fn, Imm.pl, Imm.us, encodeBS, place]

theorem sel_encodeB (sel : BitVec 1) : Imm.sel (encodeB sel) = sel := by revert sel; decide

theorem fields_encodeHiLo (hi lo : BitVec 16) :
    Imm.hi16 (encodeHiLo hi lo) = hi ∧ Imm.lo16 (encodeHiLo hi lo) = lo := by
  refine ⟨?_, ?_⟩ <;> apply BitVec.eq_of_getLsbD_eq <;> intro k hk <;> interval_cases k <;>
    simp [Imm.hi16, Imm.lo16, encodeHiLo, place]

/-! ### A word with no must-be-zero bit set is its fields -/

/-- A bit of the mask is 0 in a word that has no masked bit set. -/
theorem getLsbD_of_and_eq_zero {w m : BitVec 32} (h : w &&& m = 0#32) {k : Nat} (_hk : k < 32)
    (hm : m.getLsbD k = true) : w.getLsbD k = false := by
  have e := congrArg (fun v => v.getLsbD k) h
  simpa [hm] using e

theorem encodeP_fields {w : BitVec 32} (h : w &&& Format.P.mustBeZero = 0#32) :
    encodeP (Imm.fn w) (Imm.pl w) (Imm.us w) = w := by
  apply BitVec.eq_of_getLsbD_eq
  intro k hk
  have hb := getLsbD_of_and_eq_zero h hk
  interval_cases k <;> simp [Format.mustBeZero] at hb <;> simp [Imm.fn, Imm.pl, Imm.us, encodeP, place, hb]

theorem encodeBI_fields {w : BitVec 32} (h : w &&& Format.BI.mustBeZero = 0#32) :
    encodeBI (Imm.sel w) (Imm.bp w) (Imm.hy w) (Imm.sl w) (Imm.dr w) = w := by
  apply BitVec.eq_of_getLsbD_eq
  intro k hk
  have hb := getLsbD_of_and_eq_zero h hk
  interval_cases k <;> simp [Format.mustBeZero] at hb <;>
    simp [Imm.sel, Imm.bp, Imm.hy, Imm.sl, Imm.dr, encodeBI, place, hb]

theorem encodeBS_fields {w : BitVec 32} (h : w &&& Format.BS.mustBeZero = 0#32) :
    encodeBS (Imm.sel w) (Imm.idx w) (Imm.fn w) (Imm.pl w) (Imm.us w) = w := by
  apply BitVec.eq_of_getLsbD_eq
  intro k hk
  have hb := getLsbD_of_and_eq_zero h hk
  interval_cases k <;> simp [Format.mustBeZero] at hb <;>
    simp [Imm.sel, Imm.idx, Imm.fn, Imm.pl, Imm.us, encodeBS, place, hb]

theorem encodeB_fields {w : BitVec 32} (h : w &&& Format.B.mustBeZero = 0#32) : encodeB (Imm.sel w) = w := by
  apply BitVec.eq_of_getLsbD_eq
  intro k hk
  have hb := getLsbD_of_and_eq_zero h hk
  interval_cases k <;> simp [Format.mustBeZero] at hb <;> simp [Imm.sel, encodeB, place, hb]

theorem encodeHiLo_fields (w : BitVec 32) : encodeHiLo (Imm.hi16 w) (Imm.lo16 w) = w := by
  apply BitVec.eq_of_getLsbD_eq
  intro k hk
  interval_cases k <;> simp [Imm.hi16, Imm.lo16, encodeHiLo, place]

theorem eq_zero_of_formatN {w : BitVec 32} (h : w &&& Format.N.mustBeZero = 0#32) : w = 0#32 := by
  have e : Format.N.mustBeZero = BitVec.allOnes 32 := by decide
  rwa [e, BitVec.and_allOnes] at h

/-- A command word is its OPC and its IMM (R70). -/
theorem opc_append_imm (w : BitVec 40) : w.extractLsb' 32 8 ++ w.extractLsb' 0 32 = w := by
  apply BitVec.eq_of_getLsbD_eq
  intro k hk
  rw [BitVec.getLsbD_append]
  by_cases h : k < 32
  · simp [h]
  · rw [if_neg h, BitVec.getLsbD_extractLsb']
    simp only [show 32 + (k - 32) = k by omega]
    simp
    omega

/-! ### The decoder's steps -/

/-- Step 3 passes exactly when the DATA count is right and the UUID of format V has 16 bytes (R82). -/
theorem dataFault_eq_none {op : Opcode} {c : Command} :
    dataFault op c = none ↔ c.data.length = op.dataCount ∧ (op.format = .V → (c.dataAt 0).length = 16) := by
  unfold dataFault
  split
  · simp_all
  · split <;> simp_all

/-- A code field passes step 4 exactly when its code has a value (R91). -/
theorem noValue_eq_nil {field : OperandField} {code : Nat} {hasValue : Bool} :
    noValue field code hasValue = [] ↔ hasValue = true := by cases hasValue <;> simp [noValue]

/-- What a command that decodes has passed, and the instruction it is (R101). -/
theorem decode_eq_ok {c : Command} {i : Instr} (h : decode c = .ok i) :
    ∃ op, c.opc = op.value ∧ c.imm &&& op.format.mustBeZero = 0#32 ∧ dataFault op c = none ∧
      codeFaults op c.imm = [] ∧ i = instrOf op c := by
  unfold decode at h
  split at h
  · cases h
  · rename_i op hop
    split at h
    · cases h
    · rename_i hm
      split at h
      · cases h
      · rename_i hd
        split at h
        · cases h
        · rename_i hc
          cases h
          exact ⟨op, Opcode.ofValue_eq_some.mp hop, by simpa using hm, hd, hc, rfl⟩

end Sys2Proof
end

