-- ==== Sys2Proof/Laws/State.lean ====
section
/-! SUPPORT. One lemma for each field of `State` under each update of it, true by unfolding once, so that no later proof
unfolds a record update. -/

namespace Sys2Proof.Machine

variable (s : State)

/-! ### `setBank` -/

@[simp] theorem State.setBank_bank (b : BankSel) (v : Bank b.pinCount) : (s.setBank b v).bank b = v := by
  cases b <;> rfl

@[simp] theorem State.setBank_bank_other (b : BankSel) (v : Bank b.pinCount) :
    (s.setBank b v).bank b.other = s.bank b.other := by cases b <;> rfl

theorem State.setBank_bank_of_ne {b b' : BankSel} (v : Bank b.pinCount) (h : b' ≠ b) :
    (s.setBank b v).bank b' = s.bank b' := by cases b <;> cases b' <;> first | rfl | exact absurd rfl h

@[simp] theorem State.setBank_stream (b : BankSel) (v : Bank b.pinCount) : (s.setBank b v).stream = s.stream := by
  cases b <;> rfl

@[simp] theorem State.setBank_pending (b : BankSel) (v : Bank b.pinCount) : (s.setBank b v).pending = s.pending := by
  cases b <;> rfl

@[simp] theorem State.setBank_response (b : BankSel) (v : Bank b.pinCount) :
    (s.setBank b v).response = s.response := by cases b <;> rfl

@[simp] theorem State.setBank_setBank (b : BankSel) (v w : Bank b.pinCount) :
    (s.setBank b v).setBank b w = s.setBank b w := by cases b <;> rfl

/-! ### `bank` of the other updates -/

@[simp] theorem State.bank_bank0 : s.bank .bank0 = s.bank0 := rfl
@[simp] theorem State.bank_bank1 : s.bank .bank1 = s.bank1 := rfl
@[simp] theorem State.ok_bank (r : Result) (b : BankSel) : (s.ok r).bank b = s.bank b := by cases b <;> rfl
@[simp] theorem State.raise_bank (e : Error) (b : BankSel) : (s.raise e).bank b = s.bank b := by cases b <;> rfl
@[simp] theorem State.setStream_bank (v : Stream) (b : BankSel) : (s.setStream v).bank b = s.bank b := by
  cases b <;> rfl

/-! ### `setStream` -/

@[simp] theorem State.setStream_bank0 (v : Stream) : (s.setStream v).bank0 = s.bank0 := rfl
@[simp] theorem State.setStream_bank1 (v : Stream) : (s.setStream v).bank1 = s.bank1 := rfl
@[simp] theorem State.setStream_stream (v : Stream) : (s.setStream v).stream = v := rfl
@[simp] theorem State.setStream_pending (v : Stream) : (s.setStream v).pending = s.pending := rfl
@[simp] theorem State.setStream_response (v : Stream) : (s.setStream v).response = s.response := rfl

/-! ### Answers -/

@[simp] theorem State.ok_bank0 (r : Result) : (s.ok r).bank0 = s.bank0 := rfl
@[simp] theorem State.ok_bank1 (r : Result) : (s.ok r).bank1 = s.bank1 := rfl
@[simp] theorem State.ok_stream (r : Result) : (s.ok r).stream = s.stream := rfl
@[simp] theorem State.ok_pending (r : Result) : (s.ok r).pending = s.pending := rfl
@[simp] theorem State.ok_response (r : Result) : (s.ok r).response = some (.ok r) := rfl
@[simp] theorem State.raise_bank0 (e : Error) : (s.raise e).bank0 = s.bank0 := rfl
@[simp] theorem State.raise_bank1 (e : Error) : (s.raise e).bank1 = s.bank1 := rfl
@[simp] theorem State.raise_stream (e : Error) : (s.raise e).stream = s.stream := rfl
@[simp] theorem State.raise_pending (e : Error) : (s.raise e).pending = s.pending := rfl
@[simp] theorem State.raise_response (e : Error) : (s.raise e).response = some (.error e) := rfl

/-! ### The host's inputs -/

/-- The one field of an invalid bank that reset fixes (R39); a proof uses no other (R40). -/
@[simp] theorem Bank.reset_valid (n : Nat) : (Bank.reset n).valid = false := rfl

@[simp] theorem State.applyReset_bank0 : s.applyReset.bank0 = Bank.reset 28 := rfl
@[simp] theorem State.applyReset_bank1 : s.applyReset.bank1 = Bank.reset 18 := rfl
@[simp] theorem State.applyReset_stream : s.applyReset.stream = Stream.empty := rfl
@[simp] theorem State.applyReset_pending : s.applyReset.pending = s.pending := rfl
@[simp] theorem State.applyReset_response : s.applyReset.response = none := rfl
@[simp] theorem State.issue_pending (c : Command) : (s.issue c).pending = .command c :: s.pending := rfl
@[simp] theorem State.issue_stream (c : Command) : (s.issue c).stream = s.stream := rfl
@[simp] theorem State.issue_bank0 (c : Command) : (s.issue c).bank0 = s.bank0 := rfl
@[simp] theorem State.issue_bank1 (c : Command) : (s.issue c).bank1 = s.bank1 := rfl
@[simp] theorem State.issue_response (c : Command) : (s.issue c).response = s.response := rfl

theorem State.take_of_nil (h : s.pending = []) : s.take = none := by simp [State.take, h]

theorem State.take_of_cons {e : HostEvent} {rest : List HostEvent} (h : s.pending = e :: rest) :
    s.take = some (e, { s with pending := rest }) := by simp [State.take, h]

@[simp] theorem State.take_issue (c : Command) : (s.issue c).take = some (.command c, s) := rfl

/-! ### Banks and stream -/

section
variable {n : Nat} (bk : Bank n) (k : Fin n) (p : Pin)

@[simp] theorem Bank.setPin_valid : (bk.setPin k p).valid = bk.valid := rfl
@[simp] theorem Bank.setPin_drive : (bk.setPin k p).drive = bk.drive := rfl
@[simp] theorem Bank.setPin_slew : (bk.setPin k p).slew = bk.slew := rfl
@[simp] theorem Bank.setPin_hyst : (bk.setPin k p).hyst = bk.hyst := rfl
@[simp] theorem Bank.setPin_bp : (bk.setPin k p).bp = bk.bp := rfl
theorem Bank.setPin_pins : (bk.setPin k p).pins = bk.pins.set k p := rfl
@[simp] theorem Bank.setPin_setPin (q : Pin) : (bk.setPin k p).setPin k q = bk.setPin k q := by
  simp [Bank.setPin]

end

@[simp] theorem Stream.push_last (t : AtomType) (p : Bytes) (st : Stream) : (st.push t p).last = some t := rfl
@[simp] theorem Stream.push_count (t : AtomType) (p : Bytes) (st : Stream) :
    (st.push t p).count = st.count + 1#16 := rfl
@[simp] theorem Stream.push_atoms (t : AtomType) (p : Bytes) (st : Stream) :
    (st.push t p).atoms = st.atoms ++ [⟨t, st.count, p⟩] := rfl

end Sys2Proof.Machine
end

