-- ==== Sys2Proof/Laws/Ops.lean ====
section
/-! SUPPORT. For each shared operation, once, what it can do; later proofs cite these and do not unfold it. -/

namespace Sys2Proof.Machine

/-! ### Lengths -/

@[simp] theorem le16_length (v : BitVec 16) : (le16 v).length = 2 := rfl
@[simp] theorem le32_length (v : BitVec 32) : (le32 v).length = 4 := rfl

@[simp] theorem Bank.bytes_length_eq {n : Nat} (b : Bank n) : b.bytes.length = n + 2 := by simp [Bank.bytes]

@[simp] theorem frameBody_length (t : AtomType) (q : BitVec 16) (p : Bytes) :
    (frameBody t q p).length = p.length + 8 := by simp [frameBody]; omega

@[simp] theorem frame_length (t : AtomType) (q : BitVec 16) (p : Bytes) : (frame t q p).length = p.length + 10 := by
  simp [frame]

@[simp] theorem vinfoBytes_length (u : Bytes) (a b : BitVec 16) (v p : Bytes) :
    (vinfoBytes u a b v p).length = u.length + 6 + v.length + p.length := by simp [vinfoBytes]; omega

@[simp] theorem imageHeader_length (c : BitVec 16) (n : BitVec 32) : (imageHeader c n).length = 12 := by
  simp [imageHeader]

/-- The image's length is the stream's TOTAL_LEN (R36, R233). -/
theorem hdrLen_add_imageBody_length (atoms : List Atom) :
    Config.hdrLen + (imageBody atoms).length = totalLen atoms := by
  simp [imageBody, totalLen, List.length_flatMap]

@[simp] theorem totalLen_nil : totalLen [] = 12 := rfl

theorem totalLen_append (as bs : List Atom) :
    totalLen (as ++ bs) = totalLen as + (bs.map fun a => a.payload.length + 10).sum := by
  simp [totalLen]; omega

/-! ### Operand checks -/

/-- The local index is the global index less the first index of the bank's span. -/
theorem localIndex_eq_some {b : BankSel} {i : BitVec 8} {k : Fin b.pinCount} (h : localIndex b i = some k) :
    i.toNat = k.val + (match b with | .bank0 => 0 | .bank1 => 28) := by
  cases b
  · simp only [localIndex] at h
    split at h
    · cases h; rfl
    · cases h
  · simp only [localIndex] at h
    split at h
    · cases h
    · split at h
      · cases h; simp at *; omega
      · cases h

/-- No string is oversize exactly when both have at most 255 bytes. -/
theorem vinfoFault_eq_none {v p : Bytes} : vinfoFault v p = none ↔ v.length ≤ 255 ∧ p.length ≤ 255 := by
  unfold vinfoFault
  split
  · simp at *; omega
  · split <;> simp at * <;> omega

/-- A string check fails in one of two ways, the vendor string first. -/
theorem vinfoFault_eq_some {v p : Bytes} {e : Error} (h : vinfoFault v p = some e) :
    (255 < v.length ∧ e = .oversizeString .vendor v.length) ∨
    (v.length ≤ 255 ∧ 255 < p.length ∧ e = .oversizeString .product p.length) := by
  unfold vinfoFault at h
  split at h
  · cases h; exact .inl ⟨by simpa using ‹_›, rfl⟩
  · split at h
    · cases h; exact .inr ⟨by simp at *; omega, by simp at *; omega, rfl⟩
    · cases h

/-- BANK.CHECK fails with one of its three errors. -/
theorem definitionFault_eq_some {b : BankSel} {l : Bytes} : ∀ {seen : Bytes} {e : Error},
    definitionFault b seen l = some e →
    (∃ i, e = .reservedIndex i) ∨ (∃ i lo hi, e = .range i b lo hi) ∨ ∃ i, e = .duplicate i := by
  induction l with
  | nil => intro seen e h; cases h
  | cons i rest ih =>
    intro seen e h
    simp only [definitionFault] at h
    split at h
    · cases h
      rename_i h
      unfold indexFault at h
      split at h
      · cases h; exact .inl ⟨_, rfl⟩
      · split at h
        · cases h; exact .inr (.inl ⟨_, _, _, rfl⟩)
        · split at h
          · cases h; exact .inr (.inr ⟨_, rfl⟩)
          · cases h
    · exact ih h

/-! ### The append procedure -/

/-- What APPEND can do (R223): one of three errors that write no block state, or the three writes together. -/
theorem append_cases (t : AtomType) (p : Bytes) (s : State) :
    (t ∉ acceptRow s.stream.last ∧
      append t p s = s.raise (.orderingViolation t.tag (lastCode s.stream.last) (typeMask (acceptRow s.stream.last)))) ∨
    (t ∈ acceptRow s.stream.last ∧ s.stream.count.toNat = 65535 ∧ append t p s = s.raise (.atomCountOverflow 65535)) ∨
    (t ∈ acceptRow s.stream.last ∧ s.stream.count.toNat ≠ 65535 ∧
      4294967295 < totalLen s.stream.atoms + p.length + 10 ∧ append t p s = s.raise (.lengthOverflow p.length)) ∨
    (t ∈ acceptRow s.stream.last ∧ s.stream.count.toNat ≠ 65535 ∧
      totalLen s.stream.atoms + p.length + 10 ≤ 4294967295 ∧
      append t p s = (s.setStream (s.stream.push t p)).ok (.number s.stream.count)) := by
  by_cases h1 : t ∈ acceptRow s.stream.last
  · by_cases h2 : s.stream.count.toNat = 65535
    · exact .inr (.inl ⟨h1, h2, by simp [append, h1, h2]⟩)
    · by_cases h3 : totalLen s.stream.atoms + p.length + 10 ≤ 4294967295
      · exact .inr (.inr (.inr ⟨h1, h2, h3, by simp [append, h1, h2, Nat.not_lt.mpr h3]⟩))
      · exact .inr (.inr (.inl ⟨h1, h2, by omega, by simp [append, h1, h2, Nat.not_le.mp h3]⟩))
  · exact .inl ⟨h1, by simp [append, h1]⟩

/-- An append leaves the banks and the host's inputs as they are. -/
@[simp] theorem append_bank0 (t : AtomType) (p : Bytes) (s : State) : (append t p s).bank0 = s.bank0 := by
  rcases append_cases t p s with ⟨_, h⟩ | ⟨_, _, h⟩ | ⟨_, _, _, h⟩ | ⟨_, _, _, h⟩ <;> rw [h] <;> rfl

@[simp] theorem append_bank1 (t : AtomType) (p : Bytes) (s : State) : (append t p s).bank1 = s.bank1 := by
  rcases append_cases t p s with ⟨_, h⟩ | ⟨_, _, h⟩ | ⟨_, _, _, h⟩ | ⟨_, _, _, h⟩ <;> rw [h] <;> rfl

@[simp] theorem append_bank (t : AtomType) (p : Bytes) (s : State) (b : BankSel) :
    (append t p s).bank b = s.bank b := by cases b <;> simp

@[simp] theorem append_pending (t : AtomType) (p : Bytes) (s : State) : (append t p s).pending = s.pending := by
  rcases append_cases t p s with ⟨_, h⟩ | ⟨_, _, h⟩ | ⟨_, _, _, h⟩ | ⟨_, _, _, h⟩ <;> rw [h] <;> rfl

end Sys2Proof.Machine
end

