-- ==== Sys2Proof/Laws/Step.lean ====
section
/-! SUPPORT. What one command and one step can do, once; invariants and whole-machine rules are derived from these and do
not unfold the meanings. -/

namespace Sys2Proof.Machine

/-- The five things a command can do to the state: answer and write no block state; write one bank register set; empty
the stream; add one atom; or be stuck on a stream that does not fit its image (R56, R272). -/
theorem exec_cases (i : Instr) (s : State) :
    (∃ r, exec i s = .next { s with response := some r }) ∨
    (∃ (b : BankSel) (v : Bank b.pinCount), v.valid = true ∧
      ((∃ dr sl hy bp, i = .bankInit b dr sl hy bp) ∨
        ((s.bank b).valid = true ∧ ∃ k f p u, i = .bankSet b k f p u)) ∧
      exec i s = .next ((s.setBank b v).ok .nothing)) ∨
    (i = .streamInit ∧ exec i s = .next ((s.setStream Stream.empty).ok .nothing)) ∨
    (∃ t p, t ∈ acceptRow s.stream.last ∧ s.stream.count.toNat ≠ 65535 ∧
      totalLen s.stream.atoms + p.length + 10 ≤ 4294967295 ∧
      exec i s = .next ((s.setStream (s.stream.push t p)).ok (.number s.stream.count))) ∨
    (i = .streamSerialize ∧ 4294967295 < totalLen s.stream.atoms ∧ exec i s = .fault .imageTooLong) := by
  have happ : ∀ t p, (∃ r, (Host.Outcome.next (append t p s) : Host.Outcome State Fault Refusal) =
      .next { s with response := some r }) ∨
      ∃ t' p', t' ∈ acceptRow s.stream.last ∧ s.stream.count.toNat ≠ 65535 ∧
        totalLen s.stream.atoms + p'.length + 10 ≤ 4294967295 ∧
        (Host.Outcome.next (append t p s) : Host.Outcome State Fault Refusal) =
          .next ((s.setStream (s.stream.push t' p')).ok (.number s.stream.count)) := by
    intro t p
    rcases append_cases t p s with ⟨_, h⟩ | ⟨_, _, h⟩ | ⟨_, _, _, h⟩ | ⟨h1, h2, h3, h⟩
    · exact .inl ⟨_, by rw [h]; rfl⟩
    · exact .inl ⟨_, by rw [h]; rfl⟩
    · exact .inl ⟨_, by rw [h]; rfl⟩
    · exact .inr ⟨t, p, h1, h2, h3, by rw [h]⟩
  cases i with
  | pinPack fn pull used => exact .inl ⟨_, rfl⟩
  | bankInit b dr sl hy bp => exact .inr (.inl ⟨b, _, rfl, .inl ⟨_, _, _, _, rfl⟩, rfl⟩)
  | bankSet b k f p u =>
    simp only [exec, execBankSet]
    split
    · split
      · exact .inr (.inl ⟨b, _, by simpa using ‹_›, .inr ⟨by assumption, _, _, _, _, rfl⟩, rfl⟩)
      · exact .inl ⟨_, rfl⟩
    · exact .inl ⟨_, rfl⟩
  | bankEncode b => simp only [exec, execBankEncode]; split <;> exact .inl ⟨_, rfl⟩
  | bankCheck b l => simp only [exec, execBankCheck]; split <;> exact .inl ⟨_, rfl⟩
  | crc16 l => exact .inl ⟨_, rfl⟩
  | atomFrame t q p => simp only [exec, execAtomFrame]; split <;> exact .inl ⟨_, rfl⟩
  | vinfoFormat u a b v p => simp only [exec, execVinfoFormat]; split <;> exact .inl ⟨_, rfl⟩
  | streamInit => exact .inr (.inr (.inl ⟨rfl, rfl⟩))
  | streamAppendVinfo u a b v p =>
    simp only [exec, execStreamAppendVinfo]
    split
    · exact .inl ⟨_, rfl⟩
    · rcases happ .vendorInfo (vinfoBytes u a b v p) with h | h
      · exact .inl h
      · exact .inr (.inr (.inr (.inl h)))
  | streamAppendGpio b =>
    simp only [exec, execStreamAppendGpio]
    split
    · rcases happ (mapType b) (s.bank b).bytes with h | h
      · exact .inl h
      · exact .inr (.inr (.inr (.inl h)))
    · exact .inl ⟨_, rfl⟩
  | streamAppendDtb p =>
    rcases happ .linuxDtb p with h | h
    · exact .inl h
    · exact .inr (.inr (.inr (.inl h)))
  | streamAppendCustom p =>
    rcases happ .manufCustomData p with h | h
    · exact .inl h
    · exact .inr (.inr (.inr (.inl h)))
  | streamSerialize =>
    simp only [exec, execStreamSerialize]
    split
    · rename_i h
      rw [hdrLen_add_imageBody_length] at h
      exact .inr (.inr (.inr (.inr ⟨trivial, h, rfl⟩)))
    · exact .inl ⟨_, rfl⟩

/-- The four things a step can be: idle, a reset, a command answered with its decoding error, or a decoded command
(R58, R101, R280, R300). -/
theorem step_cases (s : State) :
    (s.pending = [] ∧ step s = .next s) ∨
    (∃ rest, s.pending = .reset :: rest ∧ step s = .next (State.applyReset { s with pending := rest })) ∨
    (∃ c rest e, s.pending = .command c :: rest ∧ decode c = .error e ∧
      step s = .next (State.raise { s with pending := rest } e)) ∨
    (∃ c rest i, s.pending = .command c :: rest ∧ decode c = .ok i ∧ step s = exec i { s with pending := rest }) := by
  cases hp : s.pending with
  | nil => exact .inl ⟨rfl, by simp [step, s.take_of_nil hp]⟩
  | cons ev rest =>
    cases ev with
    | reset => exact .inr (.inl ⟨rest, rfl, by simp [step, s.take_of_cons hp]⟩)
    | command c =>
      cases hd : decode c with
      | error e => exact .inr (.inr (.inl ⟨c, rest, e, rfl, hd, by simp [step, s.take_of_cons hp, hd]⟩))
      | ok i => exact .inr (.inr (.inr ⟨c, rest, i, rfl, hd, by simp [step, s.take_of_cons hp, hd]⟩))

end Sys2Proof.Machine
end

