-- ==== Sys2Proof/Tests/Slice0.lean ====
section
/-! SUPPORT. The model's own tests: the smoke test of WellFormed; every command decoded from a word written out from the
formats of 30_encoding.md R74 to R80; one or two small steps for each command, with results from 95_test_vectors.md; and
for each obligation with hypotheses a witness that meets them. -/

set_option Elab.async false

namespace Sys2Proof.Tests

open Sys2Proof.Machine Sys2Proof.Claims

/-! ### Helpers -/

/-- A UUID of sixteen zero bytes. -/
abbrev zeroUuid : Bytes := List.replicate 16 0#8

/-- The UUID 00112233-4455-6677-8899-aabbccddeeff, most significant byte first. -/
abbrev sampleUuid : Bytes :=
  [0x00, 0x11, 0x22, 0x33, 0x44, 0x55, 0x66, 0x77, 0x88, 0x99, 0xAA, 0xBB, 0xCC, 0xDD, 0xEE, 0xFF]

/-- Both banks initialised with every setting Default, the stream empty. -/
abbrev ready : State :=
  { State.reset with
    bank0 := Bank.init 28 .default .default .default .none
    bank1 := Bank.init 18 .default .default .default .none }

/-- `ready` with an ordering state and an atom count, and an atom store that need not fit them. -/
abbrev streamAt (last : Option AtomType) (count : BitVec 16) (atoms : List Atom) : State :=
  { ready with stream := ⟨last, count, atoms⟩ }

/-- `ready` with one VendorInfo atom. -/
abbrev oneAtom : State := streamAt (some .vendorInfo) 1#16 [⟨.vendorInfo, 0#16, []⟩]

/-- `ready` with a VendorInfo and a GpioBank0Map atom. -/
abbrev twoAtoms : State :=
  streamAt (some .gpioBank0Map) 2#16 [⟨.vendorInfo, 0#16, []⟩, ⟨.gpioBank0Map, 1#16, []⟩]

/-- A long byte string, for the limits of the length fields. -/
def zeros (n : Nat) : Bytes := List.replicate n 0#8

theorem length_zeros (n : Nat) : (zeros n).length = n := List.length_replicate

theorem length_zeros_add_nil (n : Nat) : (zeros n).length + ([] : Bytes).length ≤ n := by simp [length_zeros]

/-- Each payload byte makes the image one byte longer. -/
theorem lengthWith_zeros (s : State) (n : Nat) : lengthWith s (zeros n) = lengthWith s [] + n := by
  simp [lengthWith, length_zeros]
  omega

/-- The state after an outcome, if there is one. -/
def after : Host.Outcome State Fault Refusal → Option State
  | .next s => some s
  | .fault _ => none
  | .refused _ => none

/-- The answer to a command. -/
def answer (word : BitVec 40) (data : List Bytes) (s : State) : Option Response :=
  (after (step (s.issue ⟨word, data⟩))).bind State.response

/-! ### WellFormed refuses a UUID that is not 16 bytes (R82) -/

theorem test_vinfoFormat_short_uuid_ill_formed :
    (Instr.vinfoFormat (List.replicate 15 0#8) 0#16 0#16 [] []).wellFormed = false := by decide

theorem test_streamAppendVinfo_long_uuid_ill_formed :
    (Instr.streamAppendVinfo (List.replicate 17 0#8) 0#16 0#16 [] []).wellFormed = false := by decide

/-! ### Decoding: the words written out bit by bit from R72 and R74 to R80 -/

theorem test_decode_pinPack :
    decode ⟨0b00000001_00000000000000000000000_0_00_01_0_011#40, []⟩ = .ok (.pinPack .alt4 .up false) := by rfl

theorem test_decode_bankInit :
    decode ⟨0b00010000_0000000_1_00000000000000_01_01_10_1000#40, []⟩ =
      .ok (.bankInit .bank1 .ma16 .noLimit .disable .amp1_3) := by rfl

theorem test_decode_bankSet :
    decode ⟨0b00010001_0000000_1_00011100_0000000_1_00_11_0_111#40, []⟩ =
      .ok (.bankSet .bank1 28#8 .alt3 .none true) := by rfl

theorem test_decode_bankEncode :
    decode ⟨0b00010010_0000000_1_000000000000000000000000#40, []⟩ = .ok (.bankEncode .bank1) := by rfl

theorem test_decode_bankCheck :
    decode ⟨0b00010011_0000000_0_000000000000000000000000#40, [[4#8, 27#8]]⟩ =
      .ok (.bankCheck .bank0 [4#8, 27#8]) := by rfl

theorem test_decode_crc16 :
    decode ⟨0b00100000_00000000000000000000000000000000#40, [[0x31#8]]⟩ = .ok (.crc16 [0x31#8]) := by rfl

theorem test_decode_atomFrame :
    decode ⟨0b00100001_1111111111111111_0000000000000101#40, [[0xAA#8]]⟩ =
      .ok (.atomFrame .gpioBank1Map 65535#16 [0xAA#8]) := by rfl

theorem test_decode_vinfoFormat :
    decode ⟨0b00100010_0000000001111000_0000001010011010#40, [sampleUuid, [0x56#8], []]⟩ =
      .ok (.vinfoFormat sampleUuid 0x29A#16 120#16 [0x56#8] []) := by rfl

theorem test_decode_streamInit :
    decode ⟨0b00110000_00000000000000000000000000000000#40, []⟩ = .ok .streamInit := by rfl

theorem test_decode_streamAppendVinfo :
    decode ⟨0b00110001_0000000000000010_0000000000000001#40, [zeroUuid, [0x56#8], []]⟩ =
      .ok (.streamAppendVinfo zeroUuid 1#16 2#16 [0x56#8] []) := by rfl

theorem test_decode_streamAppendGpio :
    decode ⟨0b00110010_0000000_0_000000000000000000000000#40, []⟩ = .ok (.streamAppendGpio .bank0) := by rfl

theorem test_decode_streamAppendDtb :
    decode ⟨0b00110011_00000000000000000000000000000000#40, [[0x64#8, 0x74#8]]⟩ =
      .ok (.streamAppendDtb [0x64#8, 0x74#8]) := by rfl

theorem test_decode_streamAppendCustom :
    decode ⟨0b00110100_00000000000000000000000000000000#40, [[0xAA#8]]⟩ = .ok (.streamAppendCustom [0xAA#8]) := by rfl

theorem test_decode_streamSerialize :
    decode ⟨0b00110101_00000000000000000000000000000000#40, []⟩ = .ok .streamSerialize := by rfl

/-! ### Words the decoder refuses (95_test_vectors.md V1, V2, V5, V6.5, V7, P4) -/

theorem test_decode_reserved_bit :
    decode ⟨0x0100000008#40, []⟩ = .error (.illegalOperand .reserved 8) := by rfl

theorem test_decode_bankInit_dr9 :
    decode ⟨0x1000000009#40, []⟩ = .error (.illegalOperand .dr 9) := by rfl

theorem test_decode_bankInit_bp3 :
    decode ⟨0x1000000300#40, []⟩ = .error (.illegalOperand .bp 3) := by rfl

theorem test_decode_opcode_zero : decode ⟨0x0000000000#40, []⟩ = .error (.illegalCommand 0#8) := by rfl

theorem test_decode_data_count : decode ⟨0x0100000000#40, [[]]⟩ = .error (.illegalOperand .data 1) := by rfl

theorem test_decode_uuid_length :
    decode ⟨0x2200000000#40, [List.replicate 15 0#8, [], []]⟩ = .error (.illegalOperand .uuid 15) := by rfl

theorem test_decode_ty6 : decode ⟨0x2100000006#40, [[]]⟩ = .error (.illegalOperand .ty 6) := by rfl

/-! ### One or two steps of each command -/

/-- V1: pack(Alt3, NoPull, true) is 0xE7. -/
theorem test_pinPack_alt3 : answer 0x0100000137#40 [] State.reset = some (.ok (.byte 0xE7#8)) := by decide +kernel

/-- V1: pack(Alt5, Default, false) is 0x02, not the ordinal 7 (R125). -/
theorem test_pinPack_alt5 : answer 0x0100000002#40 [] State.reset = some (.ok (.byte 0x02#8)) := by decide +kernel

/-- P3 step 5, bank 1: 16 mA, NoLimit, Disable, None. -/
theorem test_bankInit_bank1 :
    (after (step (State.reset.issue ⟨0x1001000068#40, []⟩))).map
      (fun s => (s.bank1.valid, s.bank1.drive, s.bank1.slew, s.bank1.hyst, s.bank1.bp, s.bank0.valid)) =
    some (true, .ma16, .noLimit, .disable, .none, false) := by decide +kernel

/-- P3 step 7: BANK.SET 1, 28 writes pin 0 of bank 1. -/
theorem test_bankSet_bank1_first :
    (after (step (ready.issue ⟨0x11011C0137#40, []⟩))).map
      (fun s => (s.bank1.pins[0], s.bank1.pins[1].used, s.bank0.pins[0].used)) =
    some (⟨.alt3, .none, true⟩, false, false) := by decide +kernel

/-- P3 step 6: BANK.SET 1, 27 is out of bound; it does not wrap. -/
theorem test_bankSet_bank1_below :
    answer 0x11011B0100#40 [] ready = some (.error (.outOfBound .bank1 27#8)) := by decide +kernel

/-- P3 step 10: the payload of a configured bank 0. -/
theorem test_bankEncode_bank0 :
    answer 0x1200000000#40 [] { ready with
      bank0 := ((Bank.init 28 .ma8 .rateLimiting .enable .amp2).setPin 4 ⟨.output, .up, true⟩).setPin 27
        ⟨.alt0, .down, true⟩ } =
    some (.ok (.bytes ([0x94, 0x02, 0, 0, 0, 0, 0xA1] ++ List.replicate 22 0#8 ++ [0xC4]))) := by decide +kernel

/-- P4 step 14: the first violation, with bank 1 invalid. -/
theorem test_bankCheck_range :
    answer 0x1301000000#40 [[0x1C#8, 0x2E#8]] State.reset = some (.error (.range 46#8 .bank1 28 45)) := by
  decide +kernel

/-- V4: a repeated index. -/
theorem test_bankCheck_duplicate :
    answer 0x1300000000#40 [[4#8, 27#8, 4#8]] State.reset = some (.error (.duplicate 4#8)) := by decide +kernel

/-- V5: the catalogue's check value. -/
theorem test_crc16_check :
    answer 0x2000000000#40 [[0x31, 0x32, 0x33, 0x34, 0x35, 0x36, 0x37, 0x38, 0x39]] State.reset =
      some (.ok (.number 0xBB3D#16)) := by decide +kernel

/-- V7: the empty LinuxDTB frame with sequence number 2. -/
theorem test_atomFrame_empty :
    answer 0x2100020003#40 [[]] State.reset =
      some (.ok (.bytes [0x03, 0x00, 0x02, 0x00, 0x02, 0x00, 0x00, 0x00, 0x40, 0x4F])) := by decide +kernel

/-- V6.1: the UUID reversed, the numbers little-endian, the two lengths, the strings. -/
theorem test_vinfoFormat_sample :
    answer 0x220078029A#40 [sampleUuid,
      [0x4B, 0x55, 0x4E, 0x42, 0x55, 0x53, 0x20, 0x47, 0x6D, 0x62, 0x48],
      [0x54, 0x65, 0x73, 0x74, 0x20, 0x42, 0x6F, 0x61, 0x72, 0x64]] State.reset =
    some (.ok (.bytes [0xFF, 0xEE, 0xDD, 0xCC, 0xBB, 0xAA, 0x99, 0x88, 0x77, 0x66, 0x55, 0x44, 0x33, 0x22, 0x11, 0x00,
      0x9A, 0x02, 0x78, 0x00, 0x0B, 0x0A, 0x4B, 0x55, 0x4E, 0x42, 0x55, 0x53, 0x20, 0x47, 0x6D, 0x62, 0x48,
      0x54, 0x65, 0x73, 0x74, 0x20, 0x42, 0x6F, 0x61, 0x72, 0x64])) := by decide +kernel

/-- V6.4: both strings too long, the vendor string reported. -/
theorem test_vinfoFormat_oversize :
    answer 0x2200000000#40 [zeroUuid, List.replicate 256 0x61#8, List.replicate 256 0x61#8] State.reset =
      some (.error (.oversizeString .vendor 256)) := by decide +kernel

/-- STREAM.INIT of a stream that holds an atom. -/
theorem test_streamInit_empties :
    (after (step (oneAtom.issue ⟨0x3000000000#40, []⟩))).map State.stream = some ⟨none, 0#16, []⟩ := by decide +kernel

/-- P2 step 5: VendorInfo is atom 0. -/
theorem test_streamAppendVinfo_first :
    (after (step (ready.issue ⟨0x3100020001#40, [zeroUuid, [0x56#8], []]⟩))).map
      (fun s => (s.response, s.stream.last, s.stream.count, s.stream.atoms.map (fun a => a.payload.length))) =
    some (some (.ok (.number 0#16)), some .vendorInfo, 1#16, [23]) := by decide +kernel

/-- P2 step 6: a second VendorInfo is refused. -/
theorem test_streamAppendVinfo_second :
    answer 0x3100020001#40 [zeroUuid, [0x56#8], []] oneAtom =
      some (.error (.orderingViolation 1#16 1#3 0x02#5)) := by decide +kernel

/-- P2 step 8: the bank-0 map is atom 1, with the bank's 30 bytes. -/
theorem test_streamAppendGpio_bank0 :
    (after (step (oneAtom.issue ⟨0x3200000000#40, []⟩))).map
      (fun s => (s.response, s.stream.last, s.stream.atoms.drop 1)) =
    some (some (.ok (.number 1#16)), some .gpioBank0Map, [⟨.gpioBank0Map, 1#16, List.replicate 30 0#8⟩]) := by
  decide +kernel

/-- P2 step 4: the bank is checked before the order. -/
theorem test_streamAppendGpio_invalid :
    answer 0x3201000000#40 [] State.reset = some (.error (.bankNotInitialised .bank1)) := by decide +kernel

/-- P3 step 15: the LinuxDTB atom has sequence number 2. -/
theorem test_streamAppendDtb_third :
    answer 0x3300000000#40 [[0x64#8, 0x74#8]]
      twoAtoms = some (.ok (.number 2#16)) := by decide +kernel

/-- V8: COUNT = 65535 with LAST = 4. -/
theorem test_streamAppendCustom_full :
    answer 0x3400000000#40 [[]] (streamAt (some .manufCustomData) 65535#16 []) =
      some (.error (.atomCountOverflow 65535)) := by decide +kernel

/-- V8: COUNT = 65534 with LAST = 4 is the last append accepted. -/
theorem test_streamAppendCustom_last :
    (after (step ((streamAt (some .manufCustomData) 65534#16 []).issue ⟨0x3400000000#40, [[]]⟩))).map
      (fun s => (s.response, s.stream.count)) = some (some (.ok (.number 65534#16)), 65535#16) := by decide +kernel

/-- V9: the empty stream. -/
theorem test_streamSerialize_empty :
    answer 0x3500000000#40 [] State.reset =
      some (.ok (.bytes [0x52, 0x2D, 0x50, 0x69, 0x01, 0x00, 0x00, 0x00, 0x0C, 0x00, 0x00, 0x00])) := by decide +kernel

/-- V9: the VendorInfo atom of V6.2 alone. -/
theorem test_streamSerialize_vendor :
    answer 0x3500000000#40 [] (streamAt (some .vendorInfo) 1#16
      [⟨.vendorInfo, 0#16, List.replicate 16 0#8 ++ [0x01, 0x00, 0x02, 0x00, 0x01, 0x00, 0x56]⟩]) =
    some (.ok (.bytes ([0x52, 0x2D, 0x50, 0x69, 0x01, 0x00, 0x01, 0x00, 0x2D, 0x00, 0x00, 0x00,
      0x01, 0x00, 0x00, 0x00, 0x19, 0x00, 0x00, 0x00] ++ List.replicate 16 0#8 ++
      [0x01, 0x00, 0x02, 0x00, 0x01, 0x00, 0x56, 0xD6, 0x44]))) := by decide +kernel

/-- A word of the opcode table runs as the first command after reset. -/
theorem test_withFetchWord :
    (after (step (State.reset.withFetchWord 40 0x2200000000))).bind State.response =
      some (.ok (.bytes (List.replicate 22 0#8))) := by decide +kernel

/-! ### Witnesses: for each obligation with hypotheses, values that meet them all -/

/-- A command that decodes and answers: PIN.PACK Alt3, None, used. -/
abbrev packWord : Command := ⟨0x0100000137#40, []⟩

theorem witness_DecodeOfEncodeIsIdentity :
    (Instr.vinfoFormat zeroUuid 65535#16 0#16 [] [0xFF#8]).wellFormed = true := by decide

theorem witness_EncodeOfDecodeIsIdentity : decode packWord = .ok (.pinPack .alt3 .none true) := by rfl

theorem witness_CommandDecodesIffTableRowAdmitsIt :
    (∃ i, decode ⟨0x1001000068#40, []⟩ = .ok i) ∧ opc 0x1001000068#40 = 0x10#8 ∧
    (∃ i, decode ⟨0x2100000005#40, [[]]⟩ = .ok i) ∧ opc 0x2100000005#40 = 0x21#8 ∧
    (∃ i, decode ⟨0x2200000000#40, [zeroUuid, [], []]⟩ = .ok i) ∧ opc 0x2200000000#40 = 0x22#8 ∧
    (∃ i, decode ⟨0x3100000000#40, [zeroUuid, [], []]⟩ = .ok i) ∧ opc 0x3100000000#40 = 0x31#8 :=
  ⟨⟨_, rfl⟩, by decide, ⟨_, rfl⟩, by decide, ⟨_, rfl⟩, by decide, ⟨_, rfl⟩, by decide⟩

theorem witness_NoWordMatchesTwoRows : (rowOf .bankSet).matches 0x1101FF0137#40 := by decide

theorem witness_StepRunsDecodedCommand :
    (State.reset.issue packWord).pending = [.command packWord] ∧
    decode packWord = .ok (.pinPack .alt3 .none true) ∧
    decode ⟨0x0000000000#40, []⟩ = .error (.illegalCommand 0#8) := ⟨rfl, rfl, rfl⟩

/-- The ends of every unassigned range, and the assigned opcodes next to them. -/
theorem witness_UnassignedOpcodeIsIllegalCommand :
    (∀ v ∈ [0x00, 0x02, 0x0F, 0x14, 0x1F, 0x23, 0x2F, 0x36, 0xFF], unassigned v) ∧
    (∀ v ∈ [0x01, 0x10, 0x13, 0x20, 0x22, 0x30, 0x35], ¬ unassigned v) ∧
    (State.reset.issue ⟨0xFF00000000#40, []⟩).pending = [.command ⟨0xFF00000000#40, []⟩] ∧
    (opc 0xFF00000000#40).toNat = 0xFF := by decide

theorem witness_MustBeZeroBitIsIllegalOperand :
    (State.reset.issue ⟨0x3580000000#40, []⟩).pending = [.command ⟨0x3580000000#40, []⟩] ∧
    ∃ r ∈ rows, opc 0x3580000000#40 = opc r.bits ∧ imm 0x3580000000#40 &&& imm r.mask ≠ 0#32 := by decide

theorem witness_WrongDataIsIllegalOperand :
    (∃ r ∈ rows, r.matches 0x2000000000#40 ∧ ([] : List Bytes).length ≠ r.count) ∧
    (∃ r ∈ rows, r.matches 0x2000000000#40 ∧ ([[], [], [], []] : List Bytes).length ≠ r.count) ∧
    (∃ r ∈ rows, r.matches 0x22FFFFFFFF#40 ∧ ([List.replicate 17 0#8, [], []] : List Bytes).length = r.count) ∧
    opc 0x22FFFFFFFF#40 = 0x22#8 ∧ (List.replicate 17 0#8).length ≠ 16 ∧
    (∃ r ∈ rows, r.matches 0x3100000000#40 ∧ ([[], [], []] : List Bytes).length = r.count) ∧
    opc 0x3100000000#40 = 0x31#8 := by decide

/-- The least illegal code of each field, several at once, the ends of the illegal tags, and a word with no code field
that can be illegal. -/
theorem witness_CodeWithNoValueIsIllegalOperand :
    (∀ w ∈ [0x1000000009#40, 0x100000000F#40, 0x1000000030#40, 0x10000000C0#40, 0x1000000300#40, 0x10010003F9#40],
      opc w = 0x10#8 ∧ (∃ r ∈ rows, r.matches w) ∧ badInitCodes w ≠ []) ∧
    badInitCodes 0x1000000008#40 = [] ∧
    (∀ w ∈ [0x2100000000#40, 0x2100000006#40, 0x210000FFFF#40], opc w = 0x21#8 ∧
      ((w.extractLsb' 0 16).toNat = 0 ∨ 6 ≤ (w.extractLsb' 0 16).toNat)) ∧
    (∃ r ∈ rows, r.matches 0x0100000137#40) ∧ (∃ r ∈ rows, r.matches 0x1100FF0137#40) := by
  refine ⟨?_, by decide, ?_, by decide, by decide⟩ <;> intro w hw <;> fin_cases hw <;> decide

theorem witness_IdleStepKeepsState : ready.pending = [] := by rfl

theorem witness_ResetEventResetsTheBlock :
    ({ oneAtom with pending := [.reset] } : State).pending = [.reset] ∧ oneAtom.stream ≠ ⟨none, 0#16, []⟩ := by decide

theorem witness_StepKeepsStreamInvariants :
    (oneAtom.issue ⟨0x3200000000#40, []⟩).Inv ∧
    ∃ t, step (oneAtom.issue ⟨0x3200000000#40, []⟩) = .next t ∧ t.stream.count = 2#16 := ⟨by decide, _, rfl, rfl⟩

theorem witness_EveryRunFromInvariantIsSafe : oneAtom.Inv := by decide

theorem witness_ErrorsWriteNoState :
    ∃ t, step (oneAtom.issue ⟨0x3100000000#40, [zeroUuid, [], []]⟩) = .next t ∧
      t.response = some (.error (.orderingViolation 1#16 1#3 0x02#5)) := ⟨_, rfl, by decide⟩

theorem witness_EarlierResponseIsNeverRead : (State.reset.issue packWord).pending ≠ [] := by decide

theorem witness_EveryCommandAnswers : ∃ t, exec (.pinPack .input .up false) State.reset = .next t := ⟨_, rfl⟩

/-- `ready` with bank 0 invalid and a drive strength set in it. -/
abbrev invalidBank0 (drive : DriveStrength) : State :=
  { ready with bank0 := { Bank.init 28 drive .default .default .none with valid := false } }

/-- Two states that differ in a field of an invalid bank. -/
theorem witness_InvalidBankFieldsAreUnobservable :
    SameObservable (invalidBank0 .ma2) (invalidBank0 .ma4) ∧
    (invalidBank0 .ma2).bank0.drive ≠ (invalidBank0 .ma4).bank0.drive ∧ ∃ t, step (invalidBank0 .ma2) = .next t :=
  ⟨⟨rfl, rfl, rfl, ⟨rfl, fun h => absurd h (by decide)⟩, ⟨rfl, fun _ => rfl⟩⟩, by decide, _, rfl⟩

/-- An example of each error a command that decodes can be answered with, but the two length overflows, which stand in
`witness_AtomFrameTooLongIsLengthOverflow` and `witness_TooLongStreamIsLengthOverflow`. -/
theorem witness_ErrorsAreRaisedByTheirCommandsOnly :
    ∀ x ∈ [(Instr.bankSet .bank0 28#8 .input .up true, ready, Error.outOfBound .bank0 28#8),
      (.bankCheck .bank0 [28#8], ready, .range 28#8 .bank0 2 27), (.bankCheck .bank1 [28#8, 28#8], ready, .duplicate 28#8),
      (.bankCheck .bank1 [1#8], ready, .reservedIndex 1#8), (.streamAppendDtb [], ready, .orderingViolation 3#16 0#3 1#5),
      (.vinfoFormat zeroUuid 0#16 0#16 [] (List.replicate 256 0#8), ready, .oversizeString .product 256),
      (.streamAppendCustom [], streamAt (some .linuxDtb) 65535#16 [], .atomCountOverflow 65535),
      (.bankEncode .bank1, State.reset, .bankNotInitialised .bank1)],
    (after (exec x.1 x.2.1)).bind State.response = some (.error x.2.2) := by decide +kernel

theorem witness_OnlyBankCommandsWriteABank :
    (∃ t, exec (.bankInit .bank0 .ma2 .default .default .none) State.reset = .next t ∧
      t.bank .bank0 ≠ State.reset.bank .bank0) ∧
    ∃ t, exec (.bankSet .bank1 45#8 .alt0 .up true) ready = .next t ∧ t.bank .bank1 ≠ ready.bank .bank1 :=
  ⟨⟨_, rfl, fun h => absurd (congrArg Bank.valid h) (by decide)⟩, _, rfl, by decide +kernel⟩

theorem witness_ValidIsSetByBankInitAlone :
    ∃ t, exec (.bankInit .bank1 .ma2 .default .default .none) State.reset = .next t ∧
      (t.bank .bank1).valid = true ∧ (t.bank .bank0).valid = false := ⟨_, rfl, rfl, rfl⟩

theorem witness_AtomStoreOnlyGrows :
    ∃ t, exec (.streamAppendGpio .bank0) oneAtom = .next t ∧ Instr.streamAppendGpio .bank0 ≠ .streamInit :=
  ⟨_, rfl, by decide⟩

theorem witness_PureCommandsRepeat :
    isPure .streamSerialize = true ∧ ∃ t, exec .streamSerialize oneAtom = .next t := ⟨rfl, _, rfl⟩

theorem witness_Bank1MapEndsTheStream :
    isAppend (.streamAppendCustom []) = true ∧ (streamAt (some .gpioBank1Map) 3#16 []).stream.last = some .gpioBank1Map :=
  by decide

theorem witness_StreamsHoldExactlyTheLanguage :
    oneAtom.Inv ∧ Language [] ∧ Language [.vendorInfo] ∧ Language [.vendorInfo, .gpioBank0Map] ∧
    Language [.vendorInfo, .gpioBank0Map, .linuxDtb, .manufCustomData, .manufCustomData, .gpioBank1Map] :=
  ⟨by decide, .inl rfl, .inr (.inl rfl), .inr (.inr ⟨false, 0, false, rfl⟩), .inr (.inr ⟨true, 2, true, rfl⟩)⟩

theorem witness_PackedBytesAreExactlyThoseWithReservedBitsZero :
    (0xE7#8).extractLsb' 3 2 = 0#2 ∧ (0x08#8).extractLsb' 3 2 ≠ 0#2 ∧
    0#8 ∈ (Bank.init 18 .default .default .default .none).bytes.drop 2 := by
  decide +kernel

/-- The ends of both spans. -/
theorem witness_BankSetWritesOnePin :
    (ready.bank .bank0).valid = true ∧ (ready.bank .bank1).valid = true ∧
    (∀ i ∈ [0#8, 27#8], base .bank0 ≤ i.toNat ∧ i.toNat < base .bank0 + BankSel.pinCount .bank0) ∧
    (∀ i ∈ [28#8, 45#8], base .bank1 ≤ i.toNat ∧ i.toNat < base .bank1 + BankSel.pinCount .bank1) := by decide

theorem witness_InvalidBankIsNotUsed :
    (State.reset.bank .bank0).valid = false ∧ (State.reset.bank .bank1).valid = false := by decide

theorem witness_BankSetOutsideSpanIsOutOfBound :
    (ready.bank .bank0).valid = true ∧ (ready.bank .bank1).valid = true ∧
    (∀ i ∈ [28#8, 255#8], i.toNat < base .bank0 ∨ base .bank0 + BankSel.pinCount .bank0 ≤ i.toNat) ∧
    (∀ i ∈ [0#8, 27#8, 46#8, 255#8], i.toNat < base .bank1 ∨ base .bank1 + BankSel.pinCount .bank1 ≤ i.toNat) := by
  decide

theorem witness_LastBankSetWins :
    (∃ t, exec (.bankSet .bank0 5#8 .alt2 .up true) ready = .next t ∧ t.response = some (.ok .nothing)) ∧
    (ready.bank .bank0).valid = true ∧ base .bank0 ≤ (5#8).toNat ∧ (5#8).toNat < base .bank0 + BankSel.pinCount .bank0 :=
  ⟨⟨_, rfl, rfl⟩, by decide, by decide, by decide⟩

theorem witness_BankEncodeAnswersThePayload : (ready.bank .bank1).valid = true := by decide

theorem witness_DefaultBankEncodesAsZeros :
    ∃ t, exec (.bankInit .bank0 .default .default .default .none) State.reset = .next t := ⟨_, rfl⟩

theorem witness_BankCheckPassesExactlyGoodDefinitions :
    goodDefinition .bank0 [] ∧ goodDefinition .bank0 [2#8, 27#8] ∧ goodDefinition .bank1 [28#8, 45#8] ∧
    ¬ goodDefinition .bank0 [1#8] ∧ ¬ goodDefinition .bank0 [28#8] ∧ ¬ goodDefinition .bank1 [46#8] ∧
    ¬ goodDefinition .bank1 [28#8, 28#8] := by decide

/-- The three clauses at the ends of their ranges. -/
theorem witness_BankCheckReportsTheFirstViolation :
    goodDefinition .bank0 [2#8, 27#8] ∧ goodDefinition .bank1 [28#8, 45#8] ∧
    (∀ i ∈ [0#8, 1#8], i.toNat < 2) ∧
    (∀ i ∈ [28#8, 255#8], 2 ≤ i.toNat ∧ (i.toNat < (assignable .bank0).1 ∨ (assignable .bank0).2 < i.toNat)) ∧
    (∀ i ∈ [2#8, 27#8, 46#8, 255#8], 2 ≤ i.toNat ∧
      (i.toNat < (assignable .bank1).1 ∨ (assignable .bank1).2 < i.toNat)) ∧
    (∀ i ∈ [2#8, 27#8], (assignable .bank0).1 ≤ i.toNat ∧ i.toNat ≤ (assignable .bank0).2 ∧ i ∈ [2#8, 27#8]) ∧
    (∀ i ∈ [28#8, 45#8], (assignable .bank1).1 ≤ i.toNat ∧ i.toNat ≤ (assignable .bank1).2 ∧ i ∈ [28#8, 45#8]) := by
  decide

/-- The longest payload that fits. -/
theorem witness_AtomFrameLaysOutTheFrame : (zeros 4294967293).length + 2 ≤ 4294967295 := by
  simp [length_zeros]

/-- The shortest payload that does not. -/
theorem witness_AtomFrameTooLongIsLengthOverflow :
    4294967295 < (zeros 4294967294).length + 2 := by
  simp [length_zeros]

theorem witness_VinfoFormatLaysOutThePayload :
    sampleUuid.length = 16 ∧ (List.replicate 255 0x61#8).length ≤ 255 ∧ ([] : Bytes).length ≤ 255 := by decide +kernel

theorem witness_OversizeStringIsRefused :
    255 < (List.replicate 256 0x61#8).length ∧ (List.replicate 255 0x61#8).length ≤ 255 ∧ sampleUuid.length = 16 ∧
    ∃ t, exec (.streamAppendVinfo zeroUuid 0#16 0#16 [] []) ready = .next t :=
  ⟨by decide +kernel, by decide +kernel, by decide, _, rfl⟩

/-- Each append command accepted, the last sequence number, and the longest image. -/
theorem witness_AcceptedAppendAddsOneAtom :
    (Attempts (.streamAppendVinfo zeroUuid 1#16 2#16 [] []) ready .vendorInfo (vinfoBytes zeroUuid 1#16 2#16 [] []) ∧
      (acceptMask ready.stream.last).getLsbD (maskBit .vendorInfo) = true ∧
      lengthWith ready (vinfoBytes zeroUuid 1#16 2#16 [] []) ≤ 4294967295) ∧
    (Attempts (.streamAppendGpio .bank0) oneAtom .gpioBank0Map ready.bank0.bytes ∧
      (acceptMask oneAtom.stream.last).getLsbD (maskBit .gpioBank0Map) = true ∧
      lengthWith oneAtom ready.bank0.bytes ≤ 4294967295) ∧
    (Attempts (.streamAppendDtb []) twoAtoms .linuxDtb [] ∧
      (acceptMask (some .gpioBank0Map)).getLsbD (maskBit .linuxDtb) = true) ∧
    (Attempts (.streamAppendGpio .bank1) (streamAt (some .linuxDtb) 3#16 []) .gpioBank1Map ready.bank1.bytes ∧
      (acceptMask (some .linuxDtb)).getLsbD (maskBit .gpioBank1Map) = true) ∧
    (Attempts (.streamAppendCustom []) (streamAt (some .manufCustomData) 65534#16 []) .manufCustomData [] ∧
      (acceptMask (some .manufCustomData)).getLsbD (maskBit .manufCustomData) = true ∧ (65534#16).toNat < 65535) ∧
    lengthWith ready (zeros 4294967273) = 4294967295 :=
  ⟨⟨⟨by decide, by decide, rfl, rfl⟩, by decide, by decide⟩, ⟨⟨rfl, rfl, rfl⟩, by decide, by decide⟩,
    ⟨⟨rfl, rfl⟩, by decide⟩, ⟨⟨rfl, rfl, rfl⟩, by decide⟩, ⟨⟨rfl, rfl⟩, by decide, by decide⟩,
    (lengthWith_zeros _ _).trans (by rw [show lengthWith ready [] = 22 by decide])⟩

theorem witness_OutOfOrderAppendIsRejected :
    Attempts (.streamAppendGpio .bank1) oneAtom .gpioBank1Map ready.bank1.bytes ∧
    (acceptMask oneAtom.stream.last).getLsbD (maskBit .gpioBank1Map) = false := ⟨⟨rfl, rfl, rfl⟩, by decide⟩

theorem witness_FullStreamIsAtomCountOverflow :
    Attempts (.streamAppendCustom []) (streamAt (some .manufCustomData) 65535#16 []) .manufCustomData [] ∧
    (acceptMask (some .manufCustomData)).getLsbD (maskBit .manufCustomData) = true ∧ (65535#16).toNat = 65535 :=
  ⟨⟨rfl, rfl⟩, by decide, by decide⟩

/-- In a stream with the invariants, the shortest payload that does not fit. -/
theorem witness_TooLongStreamIsLengthOverflow :
    twoAtoms.Inv ∧ Attempts (.streamAppendCustom (zeros 4294967254)) twoAtoms .manufCustomData (zeros 4294967254) ∧
    (acceptMask twoAtoms.stream.last).getLsbD (maskBit .manufCustomData) = true ∧
    twoAtoms.stream.count.toNat < 65535 ∧ lengthWith twoAtoms (zeros 4294967253) = 4294967295 ∧
    4294967295 < lengthWith twoAtoms (zeros 4294967254) := by
  have h : lengthWith twoAtoms [] = 42 := by decide
  refine ⟨by decide, ⟨rfl, rfl⟩, by decide, by decide, ?_, ?_⟩ <;> rw [lengthWith_zeros, h]
  decide

theorem witness_FullSequenceIsNumberedInOrder :
    ready.stream = ⟨none, 0#16, []⟩ ∧ ready.bank0.valid = true ∧ ready.bank1.valid = true ∧ zeroUuid.length = 16 ∧
    (List.replicate 255 0#8).length ≤ 255 ∧
    (zeros 4294960000).length + ([] : Bytes).length ≤ 4294960000 :=
  ⟨rfl, rfl, rfl, by decide, by decide +kernel, length_zeros_add_nil _⟩

theorem witness_SerializeLaysOutTheImage : oneAtom.Inv ∧ State.reset.Inv := by decide

theorem witness_ImageDeterminesTheStream :
    oneAtom.Inv ∧ ({ oneAtom with response := some (.ok .nothing) } : State).Inv ∧
    exec .streamSerialize oneAtom = .next (answered oneAtom (.ok (.bytes (image oneAtom.stream)))) ∧
    exec .streamSerialize { oneAtom with response := some (.ok .nothing) } =
      .next (answered { oneAtom with response := some (.ok .nothing) } (.ok (.bytes (image oneAtom.stream)))) :=
  ⟨by decide, by decide, rfl, rfl⟩

theorem witness_SerializeOfExcludedStreamIsStuck :
    4294967295 < 12 + ((streamAt none 0#16 [⟨.linuxDtb, 0#16, zeros 4294967274⟩]).stream.atoms.map
      fun a => a.payload.length + 10).sum := by
  simp [length_zeros]

end Sys2Proof.Tests
end

