-- ==== Sys2Proof/Proofs/Scope.lean ====
section
/-! PROOFS. The domain of `le32` (00_scope.md R8): what STREAM.SERIALIZE does, by the length of the stream's image. -/

namespace Sys2Proof.Machine

/-- STREAM.SERIALIZE by the length R35 item 5 bounds: the image's own length is `totalLen` of the stored atoms. -/
theorem exec_streamSerialize (s : State) :
    exec .streamSerialize s =
      if 4294967295 < totalLen s.stream.atoms then .fault .imageTooLong else .next (s.ok (.bytes (image s.stream))) := by
  rw [← hdrLen_add_imageBody_length]
  rfl

/-- Settles O55: the sum in the statement is `totalLen`, so the length check of STREAM.SERIALIZE fails. -/
theorem serializeOfExcludedStreamIsStuck : Obligations.SerializeOfExcludedStreamIsStuck := by
  intro s hlong
  have htotal : 4294967295 < totalLen s.stream.atoms := hlong
  rw [exec_streamSerialize, if_pos htotal]

end Sys2Proof.Machine
end

