-- ==== Sys2Proof/Proofs/State.lean ====
section
/-! PROOFS. What keeps and what writes the state (10_state.md): the stream invariants R35, the fields of an invalid bank
(R40), the response (R38), the writers of a bank (R22 to R28) and of the atom store (R34), and reset (R39). -/

namespace Sys2Proof.Claims

open Sys2Proof.Machine

/-! ### States that differ in invalid banks alone (R40): every operation keeps them so -/

section
variable {s s' : State}

theorem SameObservable.stream_eq (h : SameObservable s s') : s.stream = s'.stream := h.1

theorem SameObservable.pending_eq (h : SameObservable s s') : s.pending = s'.pending := h.2.1

/-- The two states have the same VALID bits. -/
theorem SameObservable.valid_eq (h : SameObservable s s') (b : BankSel) : (s.bank b).valid = (s'.bank b).valid := by
  obtain ⟨-, -, -, ⟨hvalid0, -⟩, ⟨hvalid1, -⟩⟩ := h
  cases b
  · exact hvalid0
  · exact hvalid1

/-- A valid bank is the same in both states. -/
theorem SameObservable.bank_eq (h : SameObservable s s') {b : BankSel} (hv : (s.bank b).valid = true) :
    s.bank b = s'.bank b := by
  obtain ⟨-, -, -, ⟨-, hbank0⟩, ⟨-, hbank1⟩⟩ := h
  cases b
  · exact hbank0 hv
  · exact hbank1 hv

theorem SameObservable.ok (h : SameObservable s s') (r : Result) : SameObservable (s.ok r) (s'.ok r) := by
  obtain ⟨hstream, hpending, -, hbanks⟩ := h
  exact ⟨hstream, hpending, rfl, hbanks⟩

theorem SameObservable.raise (h : SameObservable s s') (e : Error) : SameObservable (s.raise e) (s'.raise e) := by
  obtain ⟨hstream, hpending, -, hbanks⟩ := h
  exact ⟨hstream, hpending, rfl, hbanks⟩

theorem SameObservable.withPending (h : SameObservable s s') (rest : List HostEvent) :
    SameObservable { s with pending := rest } { s' with pending := rest } := by
  obtain ⟨hstream, -, hresponse, hbanks⟩ := h
  exact ⟨hstream, rfl, hresponse, hbanks⟩

theorem SameObservable.setStream (h : SameObservable s s') (v : Stream) :
    SameObservable (s.setStream v) (s'.setStream v) := by
  obtain ⟨-, hpending, hresponse, hbanks⟩ := h
  exact ⟨rfl, hpending, hresponse, hbanks⟩

theorem SameObservable.setBank (h : SameObservable s s') (b : BankSel) (v : Bank b.pinCount) :
    SameObservable (s.setBank b v) (s'.setBank b v) := by
  obtain ⟨hstream, hpending, hresponse, hbank0, hbank1⟩ := h
  cases b
  · exact ⟨hstream, hpending, hresponse, ⟨rfl, fun _ => rfl⟩, hbank1⟩
  · exact ⟨hstream, hpending, hresponse, hbank0, ⟨rfl, fun _ => rfl⟩⟩

theorem SameObservable.applyReset (h : SameObservable s s') : SameObservable s.applyReset s'.applyReset := by
  obtain ⟨-, hpending, -⟩ := h
  exact ⟨rfl, hpending, rfl, by simp, by simp⟩

/-- APPEND reads the stream alone. -/
theorem SameObservable.append (h : SameObservable s s') (t : AtomType) (p : Bytes) :
    SameObservable (append t p s) (append t p s') := by
  unfold Machine.append
  rw [← h.stream_eq]
  split
  · exact h.raise _
  split
  · exact h.raise _
  split
  · exact h.raise _
  · exact (h.setStream _).ok _

end

/-- Two outcomes that differ at most in the fields of invalid banks. -/
def SameOutcome : Host.Outcome State Fault Refusal → Host.Outcome State Fault Refusal → Prop
  | .next t, .next t' => SameObservable t t'
  | .fault r, .fault r' => r = r'
  | .refused r, .refused r' => r = r'
  | _, _ => False

theorem SameOutcome.exists_next {t : State} {o : Host.Outcome State Fault Refusal} (h : SameOutcome (.next t) o) :
    ∃ t', o = .next t' ∧ SameObservable t t' := by
  cases o with
  | next t' => exact ⟨t', rfl, h⟩
  | fault r => exact h.elim
  | refused r => exact h.elim

end Sys2Proof.Claims

namespace Sys2Proof.Machine

open Sys2Proof.Claims

/-! ### What a step is, by the host's next input -/

section
variable {s : State} {rest : List HostEvent} {c : Command}

theorem step_of_nil (hp : s.pending = []) : step s = .next s := by
  simp [step, s.take_of_nil hp]

theorem step_of_reset (hp : s.pending = .reset :: rest) :
    step s = .next (State.applyReset { s with pending := rest }) := by
  simp [step, s.take_of_cons hp]

theorem step_of_decode_error (hp : s.pending = .command c :: rest) {e : Error} (hd : decode c = .error e) :
    step s = .next (State.raise { s with pending := rest } e) := by
  simp [step, s.take_of_cons hp, hd]

theorem step_of_decode_ok (hp : s.pending = .command c :: rest) {i : Instr} (hd : decode c = .ok i) :
    step s = exec i { s with pending := rest } := by
  simp [step, s.take_of_cons hp, hd]

end

/-! ### What a command that answers has done -/

/-- Only STREAM.INIT and the append commands write the stream (R32 to R34). -/
theorem exec_keeps_stream {i : Instr} {s t : State} (hinit : i ≠ .streamInit) (happend : isAppend i = false)
    (h : exec i s = .next t) : t.stream = s.stream := by
  cases i with
  | streamInit => exact absurd rfl hinit
  | streamAppendVinfo | streamAppendGpio | streamAppendDtb | streamAppendCustom => cases happend
  | pinPack | crc16 => cases h; rfl
  | bankInit => cases h; simp
  | bankSet =>
    simp only [exec, execBankSet] at h
    split at h
    · split at h <;> cases h <;> simp
    · cases h; rfl
  | bankEncode | bankCheck | atomFrame | vinfoFormat | streamSerialize =>
    simp only [exec, execBankEncode, execBankCheck, execAtomFrame, execVinfoFormat, execStreamSerialize] at h
    split at h <;> cases h <;> rfl

/-- The four ways a command answers: it writes no block state; BANK.INIT or BANK.SET writes its bank, which is valid
afterwards; STREAM.INIT empties the stream; an append command adds one atom that the ordering and both limits allow. -/
theorem exec_next_cases {i : Instr} {s t : State} (h : exec i s = .next t) :
    (∃ r, t = { s with response := some r }) ∨
    (∃ (b : BankSel) (v : Bank b.pinCount), v.valid = true ∧
      ((∃ dr sl hy bp, i = .bankInit b dr sl hy bp) ∨
        ((s.bank b).valid = true ∧ ∃ k f p u, i = .bankSet b k f p u)) ∧
      t = (s.setBank b v).ok .nothing) ∨
    (i = .streamInit ∧ t = (s.setStream Stream.empty).ok .nothing) ∨
    (isAppend i = true ∧ ∃ ty p, ty ∈ acceptRow s.stream.last ∧ s.stream.count.toNat ≠ 65535 ∧
      totalLen s.stream.atoms + p.length + 10 ≤ 4294967295 ∧
      t = (s.setStream (s.stream.push ty p)).ok (.number s.stream.count)) := by
  rcases exec_cases i s with ⟨r, h'⟩ | ⟨b, v, hv, hi, h'⟩ | ⟨hi, h'⟩ | ⟨ty, p, hty, hcount, hlen, h'⟩ | ⟨-, -, h'⟩ <;>
    rw [h'] at h <;> cases h
  · exact .inl ⟨r, rfl⟩
  · exact .inr (.inl ⟨b, v, hv, hi, rfl⟩)
  · exact .inr (.inr (.inl ⟨hi, rfl⟩))
  · refine .inr (.inr (.inr ⟨?_, ty, p, hty, hcount, hlen, rfl⟩))
    by_contra happend
    have hinit : i ≠ .streamInit := by
      rintro rfl
      cases h'
    have hkeep := congrArg Stream.atoms (exec_keeps_stream hinit (by simpa using happend) h')
    simp at hkeep

/-! ### The stream invariants (R35) -/

/-- The ordering table accepts a sequence and then `t` when it accepts the sequence and, after its last type, `t`. -/
theorem acceptsFrom_append_singleton (last : Option AtomType) (ts : List AtomType) (t : AtomType) :
    acceptsFrom last (ts ++ [t]) = true ↔ acceptsFrom last ts = true ∧ t ∈ acceptRow (ts.getLast?.or last) := by
  induction ts generalizing last with
  | nil => simp [acceptsFrom]
  | cons x xs ih =>
    have hlast : (x :: xs).getLast?.or last = xs.getLast?.or (some x) := by
      rw [List.getLast?_cons]
      cases xs.getLast? <;> rfl
    simp only [hlast, List.cons_append, acceptsFrom, Bool.and_eq_true, ih, and_assoc]

/-- The empty stream has the invariants. -/
theorem Stream.empty_wf : Stream.empty.Wf := by decide

/-- An atom that passes the three checks of APPEND keeps the invariants (R223). -/
theorem Stream.push_wf {st : Stream} {t : AtomType} {p : Bytes} (h : st.Wf) (ht : t ∈ acceptRow st.last)
    (hcount : st.count.toNat ≠ 65535) (hlen : totalLen st.atoms + p.length + 10 ≤ 4294967295) : (st.push t p).Wf := by
  obtain ⟨hnum, hseq, hlast, haccept, -⟩ := h
  refine ⟨?_, ?_, ?_, ?_, ?_⟩
  · rw [push_count, push_atoms, List.length_append, List.length_singleton, ← hnum]
    bv_omega
  · rw [push_atoms, List.map_append, hseq, List.length_append, List.length_singleton, List.range_succ, ← hnum]
    rfl
  · simp
  · have hlast' : (st.atoms.map Atom.type).getLast?.or none = st.last := by simp [hlast]
    rw [push_atoms, List.map_append, List.map_singleton, acceptsFrom_append_singleton, hlast']
    exact ⟨haccept, ht⟩
  · rw [push_atoms, totalLen_append]
    simpa [Nat.add_assoc] using hlen

/-- Every command that answers keeps the invariants. -/
theorem exec_keeps_inv {i : Instr} {s t : State} (hs : s.Inv) (h : exec i s = .next t) : t.Inv := by
  rcases exec_next_cases h with ⟨r, rfl⟩ | ⟨b, v, -, -, rfl⟩ | ⟨-, rfl⟩ | ⟨-, ty, p, hty, hcount, hlen, rfl⟩
  · exact hs
  · simpa [State.Inv] using hs
  · exact Stream.empty_wf
  · exact Stream.push_wf hs hty hcount hlen

/-- Settles O16, by the four things a step can be. -/
theorem stepKeepsStreamInvariants : Obligations.StepKeepsStreamInvariants := by
  intro s t hs h
  rcases step_cases s with ⟨-, h'⟩ | ⟨rest, -, h'⟩ | ⟨c, rest, e, -, -, h'⟩ | ⟨c, rest, i, -, -, h'⟩ <;> rw [h'] at h
  · cases h; exact hs
  · cases h; exact Stream.empty_wf
  · cases h; exact hs
  · exact exec_keeps_inv (s := { s with pending := rest }) hs h

/-- Settles O15. -/
theorem invariantHoldsAtReset : Obligations.InvariantHoldsAtReset := Stream.empty_wf

/-- Settles O13. -/
theorem resetStateIsEmptyAndInvalid : Obligations.ResetStateIsEmptyAndInvalid := ⟨rfl, rfl, rfl, rfl, rfl⟩

/-! ### Invalid banks (R22, R40) -/

/-- No command tells apart two states that differ in invalid banks alone: it reads a bank only once VALID is 1. -/
theorem exec_sameOutcome {s s' : State} (h : SameObservable s s') (i : Instr) : SameOutcome (exec i s) (exec i s') := by
  cases i with
  | pinPack | crc16 => exact h.ok _
  | bankInit b => exact (h.setBank b _).ok _
  | bankSet b k =>
    simp only [exec, execBankSet, ← h.valid_eq b]
    split
    case isTrue hv =>
      rw [← h.bank_eq hv]
      split
      · exact (h.setBank b _).ok _
      · exact h.raise _
    case isFalse => exact h.raise _
  | bankEncode b =>
    simp only [exec, execBankEncode, ← h.valid_eq b]
    split
    case isTrue hv => rw [← h.bank_eq hv]; exact h.ok _
    case isFalse => exact h.raise _
  | bankCheck | atomFrame | vinfoFormat =>
    simp only [exec, execBankCheck, execAtomFrame, execVinfoFormat]
    split
    · exact h.raise _
    · exact h.ok _
  | streamInit => exact (h.setStream _).ok _
  | streamAppendVinfo =>
    simp only [exec, execStreamAppendVinfo]
    split
    · exact h.raise _
    · exact h.append _ _
  | streamAppendGpio b =>
    simp only [exec, execStreamAppendGpio, ← h.valid_eq b]
    split
    case isTrue hv => rw [← h.bank_eq hv]; exact h.append _ _
    case isFalse => exact h.raise _
  | streamAppendDtb | streamAppendCustom => exact h.append _ _
  | streamSerialize =>
    rw [exec_streamSerialize, exec_streamSerialize, ← h.stream_eq]
    split
    · rfl
    · exact h.ok _

/-- No step tells apart two states that differ in invalid banks alone. -/
theorem step_sameOutcome {s s' : State} (h : SameObservable s s') : SameOutcome (step s) (step s') := by
  have hpending : s'.pending = s.pending := h.pending_eq.symm
  rcases step_cases s with ⟨hp, hs⟩ | ⟨rest, hp, hs⟩ | ⟨c, rest, e, hp, hd, hs⟩ | ⟨c, rest, i, hp, hd, hs⟩ <;> rw [hs]
  · rw [step_of_nil (hpending.trans hp)]
    exact h
  · rw [step_of_reset (hpending.trans hp)]
    exact (h.withPending rest).applyReset
  · rw [step_of_decode_error (hpending.trans hp) hd]
    exact (h.withPending rest).raise e
  · rw [step_of_decode_ok (hpending.trans hp) hd]
    exact exec_sameOutcome (h.withPending rest) i

/-- Settles O21: the outcomes of both steps are the same but for invalid banks. -/
theorem invalidBankFieldsAreUnobservable : Obligations.InvalidBankFieldsAreUnobservable := by
  intro s s' t h ht
  exact (ht ▸ step_sameOutcome h).exists_next

/-- Settles O34: each of the three commands checks VALID first. -/
theorem invalidBankIsNotUsed : Obligations.InvalidBankIsNotUsed := by
  intro b index fn pull used s hv i hi
  simp only [List.mem_cons, List.not_mem_nil, or_false] at hi
  rcases hi with rfl | rfl | rfl
  · simp [exec, execBankSet, hv, State.raise]
  · simp [exec, execBankEncode, hv, State.raise]
  · simp [exec, execStreamAppendGpio, hv, State.raise]

/-! ### The response (R38, R71) -/

/-- A command does the same whatever the last response was: it writes the response and reads none. -/
theorem exec_withResponse (i : Instr) (s : State) (r : Option Response) :
    exec i { s with response := r } = exec i s := by
  cases i with
  | bankInit b | bankSet b | bankEncode b | streamAppendGpio b => cases b <;> rfl
  | _ => rfl

/-- Settles O19, by the host's next input. -/
theorem earlierResponseIsNeverRead : Obligations.EarlierResponseIsNeverRead := by
  intro s r hpending
  rcases step_cases s with ⟨hp, -⟩ | ⟨rest, hp, hs⟩ | ⟨c, rest, e, hp, hd, hs⟩ | ⟨c, rest, i, hp, hd, hs⟩
  · exact absurd hp hpending
  · rw [hs, step_of_reset (s := { s with response := r }) hp]; rfl
  · rw [hs, step_of_decode_error (s := { s with response := r }) hp hd]; rfl
  · rw [hs, step_of_decode_ok (s := { s with response := r }) hp hd]
    exact exec_withResponse i { s with pending := rest } r

/-- Settles O20. -/
theorem everyCommandAnswers : Obligations.EveryCommandAnswers := by
  intro i s t h
  rcases exec_next_cases h with ⟨r, rfl⟩ | ⟨b, v, -, -, rfl⟩ | ⟨-, rfl⟩ | ⟨-, ty, p, -, -, -, rfl⟩ <;> simp

/-! ### The writers of the banks (R22 to R28) and of the atom store (R34) -/

/-- A command that answers leaves a bank as it is, or it is BANK.INIT or BANK.SET of that bank and the bank is valid
afterwards. -/
theorem exec_bank_cases {i : Instr} {s t : State} (h : exec i s = .next t) (b : BankSel) :
    t.bank b = s.bank b ∨
    ((t.bank b).valid = true ∧
      ((∃ dr sl hy bp, i = .bankInit b dr sl hy bp) ∨
        ((s.bank b).valid = true ∧ ∃ k f p u, i = .bankSet b k f p u))) := by
  rcases exec_next_cases h with ⟨r, rfl⟩ | ⟨b', v, hv, hi, rfl⟩ | ⟨-, rfl⟩ | ⟨-, ty, p, -, -, -, rfl⟩
  · exact .inl (by cases b <;> rfl)
  · by_cases hb : b = b'
    · subst hb
      exact .inr ⟨by simpa using hv, hi⟩
    · exact .inl (by simp [State.setBank_bank_of_ne s v hb])
  · exact .inl (by simp)
  · exact .inl (by simp)

/-- Settles O24. -/
theorem onlyBankCommandsWriteABank : Obligations.OnlyBankCommandsWriteABank := by
  intro i s t b h hne
  rcases exec_bank_cases h b with heq | ⟨-, hinit | ⟨-, hset⟩⟩
  · exact absurd heq hne
  · exact .inl hinit
  · exact .inr hset

/-- Settles O25: a bank that was written is valid, and BANK.SET writes only a bank that was valid before. -/
theorem validIsSetByBankInitAlone : Obligations.ValidIsSetByBankInitAlone := by
  intro i s t b h
  constructor
  · intro hv
    rcases exec_bank_cases h b with heq | ⟨-, hinit | ⟨hvalid, -⟩⟩
    · exact .inl (heq ▸ hv)
    · exact .inr hinit
    · exact .inl hvalid
  · rintro (hvalid | ⟨dr, sl, hy, bp, rfl⟩)
    · rcases exec_bank_cases h b with heq | ⟨hv, -⟩
      · rwa [heq]
      · exact hv
    · cases h
      simp [Bank.init]

/-- Settles O26: an append command adds its atom at the end, and no other command but STREAM.INIT writes the stream. -/
theorem atomStoreOnlyGrows : Obligations.AtomStoreOnlyGrows := by
  intro i s t h hinit
  rcases exec_next_cases h with ⟨r, rfl⟩ | ⟨b, v, -, -, rfl⟩ | ⟨hi, rfl⟩ | ⟨happend, ty, p, -, -, -, rfl⟩
  · exact ⟨.inl rfl, [], by simp⟩
  · exact ⟨.inl (by simp), [], by simp⟩
  · exact absurd hi hinit
  · exact ⟨.inr happend, [⟨ty, s.stream.count, p⟩], by simp⟩

end Sys2Proof.Machine
end

