-- ==== Sys2Proof/Proofs/Memory.lean ====
section
/-! PROOFS. The image and its layout (20_memory.md): the commands with no state writes (R56), the bytes STREAM.SERIALIZE
answers (R54, R55), and that they can be parsed back to the stream, since every frame carries its own length (R97). -/

namespace Sys2Proof.Machine

open Sys2Proof.Claims

/-! ### The commands with no state writes (R56) -/

theorem not_isAppend_of_isPure {i : Instr} (hpure : isPure i = true) : isAppend i = false := by
  cases i with
  | streamAppendVinfo | streamAppendGpio | streamAppendDtb | streamAppendCustom => cases hpure
  | _ => rfl

/-- A command with no state writes changes at most the response: it is none of the commands that write a bank or the
stream. -/
theorem exec_of_isPure {i : Instr} {s t : State} (hpure : isPure i = true) (h : exec i s = .next t) :
    ∃ r, t = answered s r := by
  rcases exec_next_cases h with hanswer | ⟨b, v, -, hbank, -⟩ | ⟨rfl, -⟩ | ⟨happend, -⟩
  · exact hanswer
  · rcases hbank with ⟨dr, sl, hy, bp, rfl⟩ | ⟨-, k, f, p, u, rfl⟩ <;> cases hpure
  · cases hpure
  · exact absurd happend (by simp [not_isAppend_of_isPure hpure])

/-- Settles O27: only the response differs after the command, and no command reads it. -/
theorem pureCommandsRepeat : Obligations.PureCommandsRepeat := by
  intro i s t hpure h
  obtain ⟨r, rfl⟩ := exec_of_isPure hpure h
  exact ⟨⟨r, rfl⟩, (exec_withResponse i s (some r)).trans h⟩

/-! ### Little-endian fields (R51) -/

@[simp] theorem leNat_le16 (v : BitVec 16) : leNat (le16 v) = v.toNat := by
  simp only [leNat, le16, BitVec.extractLsb'_toNat, Nat.shiftRight_eq_div_pow]
  omega

@[simp] theorem leNat_le32 (v : BitVec 32) : leNat (le32 v) = v.toNat := by
  simp only [leNat, le32, BitVec.extractLsb'_toNat, Nat.shiftRight_eq_div_pow]
  omega

theorem le16_inj {v w : BitVec 16} : le16 v = le16 w ↔ v = w :=
  ⟨fun h => BitVec.eq_of_toNat_eq (by simpa using congrArg leNat h), congrArg le16⟩

theorem le32_inj {v w : BitVec 32} : le32 v = le32 w ↔ v = w :=
  ⟨fun h => BitVec.eq_of_toNat_eq (by simpa using congrArg leNat h), congrArg le32⟩

/-- No two atom types have one tag (R90). -/
theorem tag_inj {t u : AtomType} : t.tag = u.tag ↔ t = u :=
  ⟨fun h => by simpa using congrArg AtomType.ofTag h, congrArg AtomType.tag⟩

/-! ### Lengths of a stream whose image fits its length field (R35, R36) -/

theorem totalLen_cons (a : Atom) (as : List Atom) : totalLen (a :: as) = a.payload.length + 10 + totalLen as := by
  simp [totalLen]; omega

/-- `data_length` of the first atom fits its 32-bit field, and so does the rest of the stream. -/
theorem fits_of_fits_cons {a : Atom} {as : List Atom} (h : totalLen (a :: as) ≤ 4294967295) :
    a.payload.length + 2 ≤ 4294967295 ∧ totalLen as ≤ 4294967295 := by
  rw [totalLen_cons] at h
  omega

theorem Stream.Wf.fits {st : Stream} (h : st.Wf) : totalLen st.atoms ≤ 4294967295 := by
  obtain ⟨-, -, -, -, hfits⟩ := h
  exact hfits

theorem image_length (st : Stream) : (image st).length = totalLen st.atoms := by
  rw [← hdrLen_add_imageBody_length]
  simp [image]

/-! ### STREAM.SERIALIZE and ATOM.FRAME within their limits -/

theorem exec_streamSerialize_of_fits {s : State} (h : totalLen s.stream.atoms ≤ 4294967295) :
    exec .streamSerialize s = .next (s.ok (.bytes (image s.stream))) := by
  rw [exec_streamSerialize, if_neg (Nat.not_lt.mpr h)]

theorem exec_atomFrame_of_fits {t : AtomType} {q : BitVec 16} {p : Bytes} {s : State}
    (h : p.length + 2 ≤ 4294967295) : exec (.atomFrame t q p) s = .next (s.ok (.bytes (frame t q p))) :=
  if_neg (Nat.not_lt.mpr h)

/-! ### The fields of the image by offset (R54, R98) -/

section
variable (st : Stream)

theorem image_signature : (image st).take 4 = le32 Config.signature := rfl

theorem image_formatVersion : (image st)[4]? = some Config.formatVersion := rfl

theorem image_reserved : (image st)[5]? = some 0x00#8 := rfl

theorem image_atomCount : ((image st).drop 6).take 2 = le16 st.count := rfl

theorem image_totalLength : ((image st).drop 8).take 4 = le32 (BitVec.ofNat 32 (image st).length) := by
  rw [image_length, ← hdrLen_add_imageBody_length]
  rfl

theorem image_body : (image st).drop 12 = imageBody st.atoms := rfl

end

/-- The body of an image that fits is, atom by atom, what ATOM.FRAME answers for the stored entries (R234). -/
theorem forall₂_exec_atomFrame {atoms : List Atom} (s : State) (h : totalLen atoms ≤ 4294967295) :
    List.Forall₂ (fun a f => exec (.atomFrame a.type a.seq a.payload) s = .next (s.ok (.bytes f))) atoms
      (atoms.map fun a => frame a.type a.seq a.payload) := by
  induction atoms with
  | nil => exact .nil
  | cons a as ih =>
    obtain ⟨hpayload, hrest⟩ := fits_of_fits_cons h
    exact .cons (exec_atomFrame_of_fits hpayload) (ih hrest)

/-- Settles O53: the fields are read off `image` by offset; the invariants give the count and that both lengths fit. -/
theorem serializeLaysOutTheImage : Obligations.SerializeLaysOutTheImage := by
  rintro s ⟨hcount, -, -, -, hfits⟩
  have hlength : (image s.stream).length < 2 ^ 32 := (image_length _).trans_lt (Nat.lt_succ_of_le hfits)
  refine ⟨image s.stream, exec_streamSerialize_of_fits hfits, image_signature _, image_formatVersion _,
    image_reserved _, ?_, ?_, image_length _, _, ?_, forall₂_exec_atomFrame s hfits⟩
  · rw [image_atomCount, leNat_le16, hcount]
  · rw [image_totalLength, leNat_le32, BitVec.toNat_ofNat, Nat.mod_eq_of_lt hlength]
  · rw [image_body, imageBody, List.flatMap_def]

/-! ### Parsing an image back to its stream -/

/-- The first frame of a byte string is determined: `data_length` at its fixed offset says where the payload ends, and
so where the rest begins (R97). -/
theorem frame_append_inj {t t' : AtomType} {q q' : BitVec 16} {p p' rest rest' : Bytes}
    (hp : p.length + 2 ≤ 4294967295) (hp' : p'.length + 2 ≤ 4294967295)
    (h : frame t q p ++ rest = frame t' q' p' ++ rest') : t = t' ∧ q = q' ∧ p = p' ∧ rest = rest' := by
  simp only [frame, frameBody, List.append_assoc] at h
  obtain ⟨htag, h⟩ := List.append_inj h rfl
  obtain ⟨hseq, h⟩ := List.append_inj h rfl
  obtain ⟨hlen, h⟩ := List.append_inj h rfl
  have hlength : p.length = p'.length := by
    have hdata := congrArg BitVec.toNat (le32_inj.mp hlen)
    simp only [BitVec.toNat_ofNat] at hdata
    omega
  obtain ⟨hpayload, h⟩ := List.append_inj h hlength
  obtain ⟨-, hrest⟩ := List.append_inj h rfl
  exact ⟨tag_inj.mp (le16_inj.mp htag), le16_inj.mp hseq, hpayload, hrest⟩

/-- Every stored atom adds bytes to the body. -/
theorem imageBody_eq_nil {as : List Atom} : imageBody as = [] ↔ as = [] := by
  cases as <;> simp [imageBody, frame, le16]

/-- Two atom stores whose images fit and have one body are the same, by parsing off one frame after another. -/
theorem imageBody_inj {as bs : List Atom} (has : totalLen as ≤ 4294967295) (hbs : totalLen bs ≤ 4294967295)
    (h : imageBody as = imageBody bs) : as = bs := by
  induction as generalizing bs with
  | nil => exact (imageBody_eq_nil.mp h.symm).symm
  | cons a as ih =>
    cases bs with
    | nil => exact imageBody_eq_nil.mp h
    | cons b bs =>
      obtain ⟨hpa, has⟩ := fits_of_fits_cons has
      obtain ⟨hpb, hbs⟩ := fits_of_fits_cons hbs
      obtain ⟨htype, hseq, hpayload, hrest⟩ := frame_append_inj hpa hpb h
      have hhead : a = b := by
        cases a
        cases b
        simp_all
      rw [hhead, ih has hbs hrest]

/-- In a stream with the invariants the atom store fixes COUNT and LAST (R35). -/
theorem Stream.Wf.eq_of_atoms {st st' : Stream} (h : st.Wf) (h' : st'.Wf) (hatoms : st.atoms = st'.atoms) :
    st = st' := by
  obtain ⟨hcount, -, hlast, -⟩ := h
  obtain ⟨hcount', -, hlast', -⟩ := h'
  cases st
  cases st'
  simp_all [← BitVec.toNat_inj]

/-- What STREAM.SERIALIZE answers, with the invariants, is the image. -/
theorem image_of_answered {s : State} {img : Bytes} (hs : s.Inv)
    (h : exec .streamSerialize s = .next (answered s (.ok (.bytes img)))) : img = image s.stream := by
  rw [exec_streamSerialize_of_fits hs.fits] at h
  cases h
  rfl

/-- Settles O54: equal images have equal bodies, those give equal atoms, and those the whole stream. -/
theorem imageDeterminesTheStream : Obligations.ImageDeterminesTheStream := by
  intro s s' img hs hs' h h'
  have hbody : imageBody s.stream.atoms = imageBody s'.stream.atoms := by
    rw [← image_body, ← image_body, ← image_of_answered hs h, ← image_of_answered hs' h']
  exact hs.eq_of_atoms hs' (imageBody_inj hs.fits hs'.fits hbody)

end Sys2Proof.Machine
end

