-- ==== Sys2Proof/Proofs/Encoding.lean ====
section
/-! PROOFS. The command word (30_encoding.md): decode and encode are inverse to each other, the decoder admits exactly
what the opcode table admits, and each of its refusals is answered with its record (R73, R81, R82, R91, R101). -/

namespace Sys2Proof

/-! ### The decoder's outcome by the first step of R101 that fails -/

section
variable {c : Command} {op : Opcode}

theorem decode_of_unassigned (h : ∀ op : Opcode, c.opc ≠ op.value) : decode c = .error (.illegalCommand c.opc) := by
  have hnone : Opcode.ofValue c.opc = none :=
    Option.eq_none_iff_forall_ne_some.mpr fun op hop => h op (Opcode.ofValue_eq_some.mp hop)
  simp [decode, hnone]

theorem decode_of_reserved (hop : c.opc = op.value) (hm : c.imm &&& op.format.mustBeZero ≠ 0#32) :
    decode c = .error (.illegalOperand .reserved c.imm.toNat) := by
  simp [decode, Opcode.ofValue_eq_some.mpr hop, hm]

variable (hop : c.opc = op.value) (hm : c.imm &&& op.format.mustBeZero = 0#32)
include hop hm

theorem decode_of_dataFault {r : OperandField × Nat} (hd : dataFault op c = some r) :
    decode c = .error (.illegalOperand r.1 r.2) := by
  simp [decode, Opcode.ofValue_eq_some.mpr hop, hm, hd]

theorem decode_of_codeFaults (hd : dataFault op c = none) {r : OperandField × Nat} {rs : List (OperandField × Nat)}
    (hc : codeFaults op c.imm = r :: rs) :
    decode c = .error (.illegalOperand (reportedCodeFault c.imm r rs).1 (reportedCodeFault c.imm r rs).2) := by
  simp [decode, Opcode.ofValue_eq_some.mpr hop, hm, hd, hc]

theorem decode_of_passes (hd : dataFault op c = none) (hc : codeFaults op c.imm = []) :
    decode c = .ok (instrOf op c) := by
  simp [decode, Opcode.ofValue_eq_some.mpr hop, hm, hd, hc]

end

/-! ### DATA strings and codes (R82, R91) -/

theorem dataFault_of_count {op : Opcode} {c : Command} (h : c.data.length ≠ op.dataCount) :
    dataFault op c = some (.data, c.data.length) := if_pos h

theorem dataFault_of_uuid {op : Opcode} {c : Command} (hcount : c.data.length = op.dataCount) (hV : op.format = .V)
    (huuid : (c.dataAt 0).length ≠ 16) : dataFault op c = some (.uuid, (c.dataAt 0).length) := by
  simp [dataFault, hcount, hV, huuid]

/-- Step 3 of R101 for an opcode without a UUID. -/
theorem dataFault_of_not_V {op : Opcode} {c : Command} (hV : op.format ≠ .V) (hcount : c.data.length = op.dataCount) :
    dataFault op c = none := dataFault_eq_none.mpr ⟨hcount, fun h => absurd h hV⟩

theorem Command.data_of_length_one {c : Command} (h : c.data.length = 1) : c.data = [c.dataAt 0] := by
  obtain ⟨a, ha⟩ := List.length_eq_one_iff.mp h
  simp [Command.dataAt, ha]

theorem Command.data_of_length_three {c : Command} (h : c.data.length = 3) :
    c.data = [c.dataAt 0, c.dataAt 1, c.dataAt 2] := by
  obtain ⟨a₀, a₁, a₂, ha⟩ := List.length_eq_three.mp h
  simp [Command.dataAt, ha]

theorem codeFaults_bankInit_eq_nil {w : BitVec 32} :
    codeFaults .bankInit w = [] ↔
      (DriveStrength.ofCode (Imm.dr w)).isSome ∧ (SlewRate.ofCode (Imm.sl w)).isSome ∧
      (Hysteresis.ofCode (Imm.hy w)).isSome ∧ (BackPower.ofCode (Imm.bp w)).isSome := by
  simp [codeFaults, noValue_eq_nil]

theorem codeFaults_atomFrame_eq_nil {w : BitVec 32} :
    codeFaults .atomFrame w = [] ↔ (AtomType.ofTag (Imm.lo16 w)).isSome := noValue_eq_nil

/-- A tag has a type exactly when it is 1 to 5 (R90). -/
theorem AtomType.ofTag_isSome (t : BitVec 16) :
    (AtomType.ofTag t).isSome = decide (1 ≤ t.toNat ∧ t.toNat ≤ 5) := by
  unfold AtomType.ofTag
  split
  case h_6 =>
    have hout : ¬ (1 ≤ t.toNat ∧ t.toNat ≤ 5) := by
      simp only [imp_false] at *
      omega
    simp [hout]
  all_goals simp [*]

theorem reportedCodeFault_mem (w : BitVec 32) (r : OperandField × Nat) (rs : List (OperandField × Nat)) :
    reportedCodeFault w r rs ∈ r :: rs := by
  cases rs with
  | nil => exact List.mem_singleton_self r
  | cons r' rs =>
    have hlt : Config.illegalCodeChoice w % (r :: r' :: rs).length < (r :: r' :: rs).length :=
      Nat.mod_lt _ (Nat.succ_pos _)
    simp only [reportedCodeFault, List.getD_eq_getElem _ _ hlt, List.getElem_mem]

theorem Opcode.value_inj {o o' : Opcode} : o.value = o'.value ↔ o = o' :=
  ⟨fun h => by simpa using congrArg Opcode.ofValue h, congrArg Opcode.value⟩

/-! ### Decoding an encoded instruction -/

theorem encodesInRow (i : Instr) : Laws.EncodesInRow.Statement i := by
  cases i with
  | pinPack => exact Laws.EncodesInRow.pinPack ..
  | bankInit => exact Laws.EncodesInRow.bankInit ..
  | bankSet => exact Laws.EncodesInRow.bankSet ..
  | bankEncode => exact Laws.EncodesInRow.bankEncode ..
  | bankCheck => exact Laws.EncodesInRow.bankCheck ..
  | crc16 => exact Laws.EncodesInRow.crc16 ..
  | atomFrame => exact Laws.EncodesInRow.atomFrame ..
  | vinfoFormat => exact Laws.EncodesInRow.vinfoFormat ..
  | streamInit => exact Laws.EncodesInRow.streamInit
  | streamAppendVinfo => exact Laws.EncodesInRow.streamAppendVinfo ..
  | streamAppendGpio => exact Laws.EncodesInRow.streamAppendGpio ..
  | streamAppendDtb => exact Laws.EncodesInRow.streamAppendDtb ..
  | streamAppendCustom => exact Laws.EncodesInRow.streamAppendCustom ..
  | streamSerialize => exact Laws.EncodesInRow.streamSerialize

theorem dataAt_encode (i : Instr) (k : Nat) : (encode i).dataAt k = i.data.getD k [] := rfl

theorem dataFault_encode {i : Instr} (hi : i.wellFormed = true) : dataFault i.opcode (encode i) = none := by
  obtain ⟨-, -, hcount⟩ := encodesInRow i
  refine dataFault_eq_none.mpr ⟨hcount, fun hV => ?_⟩
  cases i with
  | vinfoFormat | streamAppendVinfo => simpa [Instr.wellFormed, dataAt_encode, Instr.data] using hi
  | _ => cases hV

theorem codeFaults_imm (i : Instr) : codeFaults i.opcode i.imm = [] := by
  cases i with
  | bankInit b drive slew hyst bp =>
    obtain ⟨-, hbp, hhy, hsl, hdr⟩ := fields_encodeBI b.code bp.code hyst.code slew.code drive.code
    simp [Instr.opcode, Instr.imm, codeFaults_bankInit_eq_nil, hbp, hhy, hsl, hdr]
  | atomFrame type seq payload =>
    obtain ⟨-, hlo⟩ := fields_encodeHiLo seq type.tag
    simp [Instr.opcode, Instr.imm, codeFaults_atomFrame_eq_nil, hlo]
  | _ => rfl

/-- The fields and strings of an encoded instruction are its operands (R74 to R80). -/
theorem instrOf_encode (i : Instr) : instrOf i.opcode (encode i) = i := by
  have himm : (encode i).imm = i.imm := Laws.EncodesInRow.imm_encode i
  cases i with
  | pinPack fn pull used =>
    obtain ⟨hfn, hpl, hus⟩ := fields_encodeP fn.code pull.code (usedCode used)
    simp [instrOf, Instr.opcode, himm, Instr.imm, hfn, hpl, hus]
  | bankInit b drive slew hyst bp =>
    obtain ⟨hsel, hbp, hhy, hsl, hdr⟩ := fields_encodeBI b.code bp.code hyst.code slew.code drive.code
    simp [instrOf, Instr.opcode, himm, Instr.imm, hsel, hbp, hhy, hsl, hdr]
  | bankSet b index fn pull used =>
    obtain ⟨hsel, hidx, hfn, hpl, hus⟩ := fields_encodeBS b.code index fn.code pull.code (usedCode used)
    simp [instrOf, Instr.opcode, himm, Instr.imm, hsel, hidx, hfn, hpl, hus]
  | bankEncode | streamAppendGpio => simp [instrOf, Instr.opcode, himm, Instr.imm, sel_encodeB]
  | bankCheck => simp [instrOf, Instr.opcode, himm, Instr.imm, sel_encodeB, dataAt_encode, Instr.data]
  | atomFrame type seq payload =>
    obtain ⟨hhi, hlo⟩ := fields_encodeHiLo seq type.tag
    simp [instrOf, Instr.opcode, himm, Instr.imm, hhi, hlo, dataAt_encode, Instr.data]
  | vinfoFormat uuid pid pver | streamAppendVinfo uuid pid pver =>
    obtain ⟨hhi, hlo⟩ := fields_encodeHiLo pver pid
    simp [instrOf, Instr.opcode, himm, Instr.imm, hhi, hlo, dataAt_encode, Instr.data]
  | _ => rfl

/-- Settles O1: an encoded instruction passes the decoder's four checks, and its fields are its operands. -/
theorem decodeOfEncodeIsIdentity : Obligations.DecodeOfEncodeIsIdentity := by
  intro i hi
  obtain ⟨hop, hm, -⟩ := encodesInRow i
  have hcodes : codeFaults i.opcode (encode i).imm = [] := by
    rw [Laws.EncodesInRow.imm_encode]
    exact codeFaults_imm i
  rw [decode_of_passes hop hm (dataFault_encode hi) hcodes, instrOf_encode]

/-! ### Encoding a decoded command -/

theorem opcode_instrOf (op : Opcode) (c : Command) : (instrOf op c).opcode = op := by
  cases op <;> rfl

/-- A word with no must-be-zero bit set and no code without a value is spelled by the instruction read from it. -/
theorem imm_instrOf {op : Opcode} {c : Command} (hm : c.imm &&& op.format.mustBeZero = 0#32)
    (hc : codeFaults op c.imm = []) : (instrOf op c).imm = c.imm := by
  cases op with
  | pinPack => simpa [instrOf, Instr.imm] using encodeP_fields hm
  | bankInit =>
    obtain ⟨hdr, hsl, hhy, hbp⟩ := codeFaults_bankInit_eq_nil.mp hc
    obtain ⟨drive, hdr⟩ := Option.isSome_iff_exists.mp hdr
    obtain ⟨slew, hsl⟩ := Option.isSome_iff_exists.mp hsl
    obtain ⟨hyst, hhy⟩ := Option.isSome_iff_exists.mp hhy
    obtain ⟨bp, hbp⟩ := Option.isSome_iff_exists.mp hbp
    simpa [instrOf, Instr.imm, hdr, hsl, hhy, hbp, DriveStrength.code_of_ofCode hdr, SlewRate.code_of_ofCode hsl,
      Hysteresis.code_of_ofCode hhy, BackPower.code_of_ofCode hbp] using encodeBI_fields hm
  | bankSet => simpa [instrOf, Instr.imm] using encodeBS_fields hm
  | bankEncode | bankCheck | streamAppendGpio => simpa [instrOf, Instr.imm] using encodeB_fields hm
  | atomFrame =>
    obtain ⟨type, htype⟩ := Option.isSome_iff_exists.mp (codeFaults_atomFrame_eq_nil.mp hc)
    simpa [instrOf, Instr.imm, htype, ← AtomType.ofTag_eq_some.mp htype] using encodeHiLo_fields c.imm
  | vinfoFormat | streamAppendVinfo => exact encodeHiLo_fields c.imm
  | crc16 | streamInit | streamAppendDtb | streamAppendCustom | streamSerialize => exact (eq_zero_of_formatN hm).symm

theorem data_instrOf {op : Opcode} {c : Command} (hcount : c.data.length = op.dataCount) :
    (instrOf op c).data = c.data := by
  cases op with
  | pinPack | bankInit | bankSet | bankEncode | streamInit | streamAppendGpio | streamSerialize =>
    exact (List.length_eq_zero_iff.mp hcount).symm
  | bankCheck | crc16 | atomFrame | streamAppendDtb | streamAppendCustom =>
    exact (Command.data_of_length_one hcount).symm
  | vinfoFormat | streamAppendVinfo => exact (Command.data_of_length_three hcount).symm

theorem wellFormed_instrOf {op : Opcode} {c : Command} (huuid : op.format = .V → (c.dataAt 0).length = 16) :
    (instrOf op c).wellFormed = true := by
  cases op with
  | vinfoFormat | streamAppendVinfo => simpa [instrOf, Instr.wellFormed] using huuid rfl
  | _ => rfl

/-- Settles O2: what the decoder's checks passed is what the encoder writes: opcode, operand word and strings. -/
theorem encodeOfDecodeIsIdentity : Obligations.EncodeOfDecodeIsIdentity := by
  intro c i h
  obtain ⟨op, hop, hm, hd, hc, rfl⟩ := decode_eq_ok h
  obtain ⟨hcount, huuid⟩ := dataFault_eq_none.mp hd
  refine ⟨?_, wellFormed_instrOf huuid⟩
  have hword : op.value ++ c.imm = c.word := by
    rw [← hop]
    exact opc_append_imm c.word
  simp only [encode, opcode_instrOf, imm_instrOf hm hc, data_instrOf hcount, hword]

end Sys2Proof

namespace Sys2Proof.Claims

/-! ### The rows of the opcode table (R72, R101) -/

theorem map_rowOf_eq_rows :
    [Opcode.pinPack, .bankInit, .bankSet, .bankEncode, .bankCheck, .crc16, .atomFrame, .vinfoFormat, .streamInit,
      .streamAppendVinfo, .streamAppendGpio, .streamAppendDtb, .streamAppendCustom, .streamSerialize].map rowOf =
      rows := by decide

theorem mem_rows {r : Row} : r ∈ rows ↔ ∃ op, rowOf op = r := by
  rw [← map_rowOf_eq_rows, List.mem_map]
  refine ⟨fun ⟨op, _, hr⟩ => ⟨op, hr⟩, fun ⟨op, hr⟩ => ⟨op, ?_, hr⟩⟩
  cases op <;> decide

theorem opc_rowOf_bits (op : Opcode) : opc (rowOf op).bits = op.value := BitVec.extractLsb'_append_eq_left
theorem imm_rowOf_bits (op : Opcode) : imm (rowOf op).bits = 0#32 := BitVec.extractLsb'_append_eq_right
theorem opc_rowOf_mask (op : Opcode) : opc (rowOf op).mask = BitVec.allOnes 8 := BitVec.extractLsb'_append_eq_left
theorem imm_rowOf_mask (op : Opcode) : imm (rowOf op).mask = op.format.mustBeZero := BitVec.extractLsb'_append_eq_right

theorem opc_and (v w : BitVec 40) : opc (v &&& w) = opc v &&& opc w := BitVec.extractLsb'_and
theorem imm_and (v w : BitVec 40) : imm (v &&& w) = imm v &&& imm w := BitVec.extractLsb'_and

theorem word_ext {v w : BitVec 40} (hopc : opc v = opc w) (himm : imm v = imm w) : v = w :=
  calc
    v = opc v ++ imm v := (opc_append_imm v).symm
    _ = opc w ++ imm w := by rw [hopc, himm]
    _ = w := opc_append_imm w

/-- A word matches an opcode's row when it has the opcode and no must-be-zero bit of its format set. -/
theorem rowOf_matches {op : Opcode} {w : BitVec 40} :
    (rowOf op).matches w ↔ opc w = op.value ∧ imm w &&& op.format.mustBeZero = 0#32 := by
  have hopc : opc (w &&& (rowOf op).mask) = opc w := by
    rw [opc_and, opc_rowOf_mask, BitVec.and_allOnes]
  have himm : imm (w &&& (rowOf op).mask) = imm w &&& op.format.mustBeZero := by
    rw [imm_and, imm_rowOf_mask]
  constructor
  · intro h
    exact ⟨by rw [← hopc, h, opc_rowOf_bits], by rw [← himm, h, imm_rowOf_bits]⟩
  · rintro ⟨hvalue, hzero⟩
    exact word_ext (by rw [hopc, hvalue, opc_rowOf_bits]) (by rw [himm, hzero, imm_rowOf_bits])

/-- A word that matches a row matches that of an opcode, which it holds in OPC. -/
theorem exists_opcode_of_matches {r : Row} {w : BitVec 40} (hr : r ∈ rows) (hmatch : r.matches w) :
    ∃ op, rowOf op = r ∧ opc w = op.value ∧ imm w &&& op.format.mustBeZero = 0#32 := by
  obtain ⟨op, rfl⟩ := mem_rows.mp hr
  exact ⟨op, rfl, rowOf_matches.mp hmatch⟩

/-- Of a word with a given opcode, the only row it can match is that opcode's. -/
theorem reserved_eq_zero_of_matches {op : Opcode} {w : BitVec 40} (hop : opc w = op.value)
    (hrow : ∃ r ∈ rows, r.matches w) : imm w &&& op.format.mustBeZero = 0#32 := by
  obtain ⟨r, hr, hmatch⟩ := hrow
  obtain ⟨op', -, hop', hm⟩ := exists_opcode_of_matches hr hmatch
  obtain rfl : op' = op := Opcode.value_inj.mp (hop'.symm.trans hop)
  exact hm

/-- The rows admit a word and its DATA strings exactly when an opcode does: in OPC, in the must-be-zero bits and in the
DATA count. -/
theorem rows_admit_iff {w : BitVec 40} {n : Nat} :
    (∃ r ∈ rows, r.matches w ∧ n = r.count) ↔
      ∃ op : Opcode, opc w = op.value ∧ imm w &&& op.format.mustBeZero = 0#32 ∧ n = op.dataCount := by
  constructor
  · rintro ⟨r, hr, hmatch, hn⟩
    obtain ⟨op, rfl, hop, hm⟩ := exists_opcode_of_matches hr hmatch
    exact ⟨op, hop, hm, hn⟩
  · rintro ⟨op, hop, hm, hn⟩
    exact ⟨rowOf op, mem_rows.mpr ⟨op, rfl⟩, rowOf_matches.mpr ⟨hop, hm⟩, hn⟩

/-- Settles O4: a word has one opcode in OPC. -/
theorem noWordMatchesTwoRows : Obligations.NoWordMatchesTwoRows := by
  refine ⟨map_rowOf_eq_rows, fun w o o' h h' => ?_⟩
  obtain ⟨hop, -⟩ := rowOf_matches.mp h
  obtain ⟨hop', -⟩ := rowOf_matches.mp h'
  exact Opcode.value_inj.mp (hop.symm.trans hop')

/-! ### The decoder's checks, read off the opcode value and the bits of the word -/

theorem dr_imm (w : BitVec 40) : Imm.dr (imm w) = w.extractLsb' 0 4 := BitVec.extractLsb'_extractLsb'_of_le (by decide)
theorem sl_imm (w : BitVec 40) : Imm.sl (imm w) = w.extractLsb' 4 2 := BitVec.extractLsb'_extractLsb'_of_le (by decide)
theorem hy_imm (w : BitVec 40) : Imm.hy (imm w) = w.extractLsb' 6 2 := BitVec.extractLsb'_extractLsb'_of_le (by decide)
theorem bp_imm (w : BitVec 40) : Imm.bp (imm w) = w.extractLsb' 8 2 := BitVec.extractLsb'_extractLsb'_of_le (by decide)
theorem lo16_imm (w : BitVec 40) : Imm.lo16 (imm w) = w.extractLsb' 0 16 :=
  BitVec.extractLsb'_extractLsb'_of_le (by decide)

theorem format_eq_V_iff {op : Opcode} : op.format = .V ↔ op.value = 0x22#8 ∨ op.value = 0x31#8 := by
  cases op <;> decide

/-- Step 4 of R101 as R91 says it: which codes have a value, under the two opcodes whose codes can lack one. -/
theorem codeFaults_eq_nil_iff {op : Opcode} {w : BitVec 40} :
    codeFaults op (imm w) = [] ↔
      (op.value = 0x10#8 → (w.extractLsb' 0 4).toNat ≤ 8 ∧ (w.extractLsb' 4 2).toNat ≤ 2 ∧
        (w.extractLsb' 6 2).toNat ≤ 2 ∧ (w.extractLsb' 8 2).toNat ≤ 2) ∧
      (op.value = 0x21#8 → 1 ≤ (w.extractLsb' 0 16).toNat ∧ (w.extractLsb' 0 16).toNat ≤ 5) := by
  cases op with
  | bankInit =>
    simp only [codeFaults_bankInit_eq_nil, DriveStrength.ofCode_isSome, SlewRate.ofCode_isSome,
      Hysteresis.ofCode_isSome, BackPower.ofCode_isSome, dr_imm, sl_imm, hy_imm, bp_imm, decide_eq_true_eq]
    simp [Opcode.value]
  | atomFrame =>
    simp only [codeFaults_atomFrame_eq_nil, AtomType.ofTag_isSome, lo16_imm, decide_eq_true_eq]
    simp [Opcode.value]
  | _ => simp [codeFaults, Opcode.value]

/-- Settles O3: the right side says, for the row's opcode, that the four checks of the decoder pass. -/
theorem commandDecodesIffTableRowAdmitsIt : Obligations.CommandDecodesIffTableRowAdmitsIt := by
  intro c
  rw [rows_admit_iff]
  constructor
  · rintro ⟨i, hi⟩
    obtain ⟨op, hop, hm, hd, hc, -⟩ := decode_eq_ok hi
    obtain ⟨hcount, huuid⟩ := dataFault_eq_none.mp hd
    have hopc : opc c.word = op.value := hop
    rw [hopc]
    exact ⟨⟨op, rfl, hm, hcount⟩, fun hV => huuid (format_eq_V_iff.mpr hV), codeFaults_eq_nil_iff.mp hc⟩
  · rintro ⟨⟨op, hop, hm, hcount⟩, huuid, hcodes⟩
    rw [hop] at huuid hcodes
    have hd : dataFault op c = none := dataFault_eq_none.mpr ⟨hcount, fun hV => huuid (format_eq_V_iff.mp hV)⟩
    exact ⟨instrOf op c, decode_of_passes hop hm hd (codeFaults_eq_nil_iff.mpr hcodes)⟩

/-! ### The records of step 4 (R91) -/

theorem noValue_drive (n : Nat) : noValue .dr n (decide (n ≤ 8)) = [(.dr, n)].filter (fun r => 9 ≤ r.2) := by
  by_cases h : n ≤ 8
  · have h9 : ¬ 9 ≤ n := by omega
    simp [noValue, h, h9]
  · have h9 : 9 ≤ n := by omega
    simp [noValue, h, h9]

theorem noValue_twoBit (field : OperandField) (code : BitVec 2) :
    noValue field code.toNat (decide (code.toNat ≤ 2)) = [(field, code.toNat)].filter (fun r => r.2 = 3) := by
  by_cases h : code.toNat = 3
  · simp [noValue, h]
  · have h2 : code.toNat ≤ 2 := by omega
    simp [noValue, h, h2]

theorem codeFaults_bankInit (w : BitVec 40) : codeFaults .bankInit (imm w) = badInitCodes w := by
  simp only [codeFaults, badInitCodes, DriveStrength.ofCode_isSome, SlewRate.ofCode_isSome, Hysteresis.ofCode_isSome,
    BackPower.ofCode_isSome, dr_imm, sl_imm, hy_imm, bp_imm, noValue_drive, noValue_twoBit, List.append_assoc,
    ← List.filter_append, List.cons_append, List.nil_append]

theorem codeFaults_atomFrame {w : BitVec 40}
    (htag : (w.extractLsb' 0 16).toNat = 0 ∨ 6 ≤ (w.extractLsb' 0 16).toNat) :
    codeFaults .atomFrame (imm w) = [(.ty, (w.extractLsb' 0 16).toNat)] := by
  have hno : ¬ (1 ≤ (w.extractLsb' 0 16).toNat ∧ (w.extractLsb' 0 16).toNat ≤ 5) := by omega
  simp only [codeFaults, noValue, AtomType.ofTag_isSome, lo16_imm, hno, decide_false, Bool.false_eq_true, if_false]

end Sys2Proof.Claims

namespace Sys2Proof.Machine

open Sys2Proof.Claims

/-! ### Steps that decode a command or refuse it (R73, R81, R82, R91) -/

/-- Settles O7. -/
theorem stepRunsDecodedCommand : Obligations.StepRunsDecodedCommand :=
  fun _ _ _ hp => ⟨fun _ hd => step_of_decode_ok hp hd, fun _ hd => step_of_decode_error hp hd⟩

theorem not_unassigned_value (op : Opcode) : ¬ unassigned op.value.toNat := by
  cases op <;> decide

/-- Settles O8: no opcode of the decoder has an unassigned value. -/
theorem unassignedOpcodeIsIllegalCommand : Obligations.UnassignedOpcodeIsIllegalCommand := by
  refine ⟨fun s c rest hp hun => step_of_decode_error hp (decode_of_unassigned fun op hop => ?_), by decide +kernel⟩
  have hopc : opc c.word = op.value := hop
  rw [hopc] at hun
  exact not_unassigned_value op hun

/-- Settles O9: the row's mask over IMM is the must-be-zero mask of its opcode's format. -/
theorem mustBeZeroBitIsIllegalOperand : Obligations.MustBeZeroBitIsIllegalOperand := by
  intro s c rest hp r hr hop hset
  obtain ⟨op, rfl⟩ := mem_rows.mp hr
  rw [opc_rowOf_bits] at hop
  rw [imm_rowOf_mask] at hset
  exact step_of_decode_error hp (decode_of_reserved hop hset)

/-- Settles O10: the two records of step 3 of R101, the count first. -/
theorem wrongDataIsIllegalOperand : Obligations.WrongDataIsIllegalOperand := by
  intro s c rest hp r hr hmatch
  obtain ⟨op, rfl, hop, hm⟩ := exists_opcode_of_matches hr hmatch
  refine ⟨fun hcount => ?_, fun hcount hV huuid => ?_⟩
  · exact step_of_decode_error hp (decode_of_dataFault hop hm (dataFault_of_count hcount))
  · rw [hop, ← format_eq_V_iff] at hV
    exact step_of_decode_error hp (decode_of_dataFault hop hm (dataFault_of_uuid hcount hV huuid))

/-- Settles O11: the code faults of the two opcodes that can have one are the offending fields, and the decoder reports
one of them; PIN.PACK and BANK.SET have none. -/
theorem codeWithNoValueIsIllegalOperand : Obligations.CodeWithNoValueIsIllegalOperand := by
  intro s c rest hp
  have hnodata {op : Opcode} (hV : op.format ≠ .V) (hcount : op.dataCount = 0) (hdata : c.data = []) :
      dataFault op c = none := dataFault_of_not_V hV (by rw [hdata, hcount]; rfl)
  refine ⟨fun hop hrow hdata hbad => ?_, fun hop hcount htag => ?_, fun hop hrow hdata => ?_⟩
  · obtain ⟨r, rs, hbad⟩ := List.exists_cons_of_ne_nil hbad
    have hc : codeFaults .bankInit c.imm = r :: rs := (codeFaults_bankInit c.word).trans hbad
    rw [hbad]
    exact ⟨_, reportedCodeFault_mem c.imm r rs, step_of_decode_error hp (decode_of_codeFaults (op := .bankInit) hop
      (reserved_eq_zero_of_matches hop hrow) (hnodata (by decide) rfl hdata) hc)⟩
  · exact step_of_decode_error hp (decode_of_codeFaults (op := .atomFrame) hop BitVec.and_zero
      (dataFault_of_not_V (by decide) hcount) (codeFaults_atomFrame htag))
  · rcases hop with hop | hop
    · exact ⟨_, decode_of_passes (op := .pinPack) hop (reserved_eq_zero_of_matches hop hrow)
        (hnodata (by decide) rfl hdata) rfl⟩
    · exact ⟨_, decode_of_passes (op := .bankSet) hop (reserved_eq_zero_of_matches hop hrow)
        (hnodata (by decide) rfl hdata) rfl⟩

/-! ### Words and code tables (R74 to R79, R84 to R90) -/

/-- Settles O5: the decoder run on the six words. -/
theorem specWordsDecode : Obligations.SpecWordsDecode := ⟨rfl, rfl, rfl, rfl, rfl, rfl⟩

/-- Settles O6. -/
theorem codeTablesAreTheSpecs : Obligations.CodeTablesAreTheSpecs := ⟨rfl, rfl, rfl, rfl, rfl, rfl, rfl⟩

end Sys2Proof.Machine
end

/-! PROOFS. The pin packer (40_pin_packer.md): the fields of a packed byte (R121, R123), and that packing is a bijection
of the pins onto the bytes with bits 4:3 zero (R124). -/

namespace Sys2Proof.Machine

open Sys2Proof.Claims

/-! ### The fields of a packed byte (R121, R123) -/

section
variable (fn : BitVec 3) (pl : BitVec 2) (us : BitVec 1)

@[simp] theorem pack_fn : (pack fn pl us).extractLsb' 0 3 = fn := by
  apply BitVec.eq_of_getLsbD_eq
  intro k hk
  interval_cases k <;> simp [pack]

@[simp] theorem pack_reserved : (pack fn pl us).extractLsb' 3 2 = 0#2 := by
  apply BitVec.eq_of_getLsbD_eq
  intro k hk
  interval_cases k <;> simp [pack]

@[simp] theorem pack_pull : (pack fn pl us).extractLsb' 5 2 = pl := by
  apply BitVec.eq_of_getLsbD_eq
  intro k hk
  interval_cases k <;> simp [pack]

@[simp] theorem pack_used : (pack fn pl us).extractLsb' 7 1 = us := by
  apply BitVec.eq_of_getLsbD_eq
  intro k hk
  interval_cases k
  simp [pack]

theorem pack_getLsbD_seven : (pack fn pl us).getLsbD 7 = us.getLsbD 0 := by simp [pack]

end

/-- A byte with bits 4:3 zero is the packing of its own fields. -/
theorem pack_fields {x : BitVec 8} (h : x.extractLsb' 3 2 = 0#2) :
    pack (x.extractLsb' 0 3) (x.extractLsb' 5 2) (x.extractLsb' 7 1) = x := by
  have h3 : x[3] = false := by simpa using congrArg (·.getLsbD 0) h
  have h4 : x[4] = false := by simpa using congrArg (·.getLsbD 1) h
  apply BitVec.eq_of_getLsbD_eq
  intro k hk
  interval_cases k <;> simp [pack, h3, h4]

/-! ### Packing is a bijection of the pins onto the bytes with bits 4:3 zero (R124) -/

/-- The pin whose fields a byte holds: the unpack functions of R123, and the values their codes stand for. -/
def Pin.ofByte (x : BitVec 8) : Pin :=
  ⟨.ofCode (x.extractLsb' 0 3), .ofCode (x.extractLsb' 5 2), usedOfCode (x.extractLsb' 7 1)⟩

@[simp] theorem Pin.ofByte_byte (p : Pin) : Pin.ofByte p.byte = p := by
  simp [Pin.ofByte, Pin.byte]

theorem Pin.byte_ofByte {x : BitVec 8} (h : x.extractLsb' 3 2 = 0#2) : (Pin.ofByte x).byte = x := by
  simpa [Pin.ofByte, Pin.byte] using pack_fields h

@[simp] theorem Pin.byte_reserved (p : Pin) : p.byte.extractLsb' 3 2 = 0#2 := pack_reserved ..

/-! ### What PIN.PACK answers (R120) -/

theorem exec_pinPack (fn : GpioFunction) (pull : PullMode) (used : Bool) (s : State) :
    exec (.pinPack fn pull used) s = .next (answered s (.ok (.byte (Pin.mk fn pull used).byte))) := rfl

theorem exec_pinPack_answers_iff {fn : GpioFunction} {pull : PullMode} {used : Bool} {s : State} {x : BitVec 8} :
    exec (.pinPack fn pull used) s = .next (answered s (.ok (.byte x))) ↔ (Pin.mk fn pull used).byte = x := by
  simp [exec_pinPack]

/-- Settles O31: unpacking gives the one triple of a byte with bits 4:3 zero, and the bytes of a bank payload after the
first two are pin bytes. -/
theorem packedBytesAreExactlyThoseWithReservedBitsZero :
    Obligations.PackedBytesAreExactlyThoseWithReservedBitsZero := by
  refine ⟨fun s x => ?_, fun n bk x hx => ?_⟩
  · simp only [exec_pinPack_answers_iff]
    constructor
    · rintro ⟨i, rfl, -⟩
      exact Pin.byte_reserved _
    · intro h
      refine ⟨((Pin.ofByte x).fn, (Pin.ofByte x).pull, (Pin.ofByte x).used), Pin.byte_ofByte h, ?_⟩
      rintro ⟨fn, pull, used⟩ rfl
      simp
  · obtain ⟨p, -, rfl⟩ : ∃ p ∈ bk.pins.toList, p.byte = x := List.mem_map.mp hx
    exact p.byte_reserved

theorem usedCode_getLsbD_zero (used : Bool) : (usedCode used).getLsbD 0 = used := by
  cases used <;> rfl

/-- Settles O30: the byte is the packing of the three codes. -/
theorem pinPackPacksEachField : Obligations.PinPackPacksEachField := by
  intro fn pull used s
  refine ⟨_, exec_pinPack fn pull used s, pack_fn .., pack_reserved .., pack_pull .., ?_⟩
  exact (pack_getLsbD_seven ..).trans (usedCode_getLsbD_zero used)

end Sys2Proof.Machine

/-! PROOFS. The bank encoder (41_bank_encoder.md): the pin index of BANK.SET (R140 to R144), the bytes BANK.ENCODE
answers (R145, R146), and the scan of BANK.CHECK (R147 to R149). -/

namespace Sys2Proof.Machine

open Sys2Proof.Claims

/-- What a command that writes bank `b` and answers OK leaves as it was. -/
theorem State.setBank_ok_frame (s : State) (b : BankSel) (v : Bank b.pinCount) :
    ((s.setBank b v).ok .nothing).bank b.other = s.bank b.other ∧
    ((s.setBank b v).ok .nothing).stream = s.stream ∧
    ((s.setBank b v).ok .nothing).pending = s.pending ∧
    ((s.setBank b v).ok .nothing).response = some (.ok .nothing) := by simp

/-! ### BANK.INIT (R141) -/

theorem exec_bankInit (b : BankSel) (drive : DriveStrength) (slew : SlewRate) (hyst : Hysteresis) (bp : BackPower)
    (s : State) : exec (.bankInit b drive slew hyst bp) s =
      .next ((s.setBank b (Bank.init b.pinCount drive slew hyst bp)).ok .nothing) := rfl

theorem Bank.init_pins_getElem {n : Nat} (drive : DriveStrength) (slew : SlewRate) (hyst : Hysteresis) (bp : BackPower)
    (k : Fin n) : (Bank.init n drive slew hyst bp).pins[k] = Pin.unused := Vector.getElem_replicate _

/-- Settles O32: the new bank is `Bank.init` of the operands. -/
theorem bankInitWritesTheWholeBank : Obligations.BankInitWritesTheWholeBank := by
  intro b drive slew hyst bp s
  refine ⟨_, exec_bankInit b drive slew hyst bp s, ?_⟩
  rw [State.ok_bank, State.setBank_bank]
  exact ⟨rfl, rfl, rfl, rfl, rfl, Bank.init_pins_getElem drive slew hyst bp, State.setBank_ok_frame ..⟩

/-! ### The local index of a pin (R140, R143) -/

section
variable {b : BankSel} {index : BitVec 8}

theorem localIndex_eq_some_iff {k : Fin b.pinCount} :
    localIndex b index = some k ↔ base b + k.val = index.toNat := by
  obtain ⟨k, hk⟩ := k
  cases b with
  | bank0 =>
    have hk : k < 28 := hk
    simp [localIndex, base, eq_comm]
    omega
  | bank1 =>
    have hk : k < 18 := hk
    by_cases hlow : index.toNat < 28
    · simp [localIndex, base, hlow]; omega
    · simp [localIndex, base, hlow]; omega

theorem exists_localIndex (hlo : base b ≤ index.toNat) (hhi : index.toNat < base b + b.pinCount) :
    ∃ k, localIndex b index = some k :=
  ⟨⟨index.toNat - base b, by omega⟩, localIndex_eq_some_iff.mpr (Nat.add_sub_cancel' hlo)⟩

theorem localIndex_eq_none (hout : index.toNat < base b ∨ base b + b.pinCount ≤ index.toNat) :
    localIndex b index = none := by
  refine Option.eq_none_iff_forall_ne_some.mpr fun k hk => ?_
  have hglobal := localIndex_eq_some_iff.mp hk
  have hk := k.isLt
  omega

end

/-! ### BANK.SET (R142) -/

section
variable {b : BankSel} {index : BitVec 8} {s : State} (fn : GpioFunction) (pull : PullMode) (used : Bool)

theorem exec_bankSet_of_some (hv : (s.bank b).valid = true) {k : Fin b.pinCount} (hk : localIndex b index = some k) :
    exec (.bankSet b index fn pull used) s =
      .next ((s.setBank b ((s.bank b).setPin k ⟨fn, pull, used⟩)).ok .nothing) := by
  simp [exec, execBankSet, hv, hk]

theorem exec_bankSet_of_none (hv : (s.bank b).valid = true) (hk : localIndex b index = none) :
    exec (.bankSet b index fn pull used) s = .next (answered s (.error (.outOfBound b index))) := by
  simp [exec, execBankSet, hv, hk, State.raise]

end

/-- Settles O35: the index has no local index. -/
theorem bankSetOutsideSpanIsOutOfBound : Obligations.BankSetOutsideSpanIsOutOfBound :=
  fun _ _ fn pull used _ hv hout => exec_bankSet_of_none fn pull used hv (localIndex_eq_none hout)

section
variable {n : Nat} (bk : Bank n) (k j : Fin n) (p : Pin)

theorem Bank.setPin_pins_getElem : (bk.setPin k p).pins[j] = if k = j then p else bk.pins[j] := by
  simp [Bank.setPin_pins, Vector.getElem_set, Fin.ext_iff]

/-- Every field but the pins is as it was. -/
theorem Bank.setPin_with_pins : { bk.setPin k p with pins := bk.pins } = bk := rfl

end

/-- Settles O33: the pin written is the one at the local index, and the local index determines the global one. -/
theorem bankSetWritesOnePin : Obligations.BankSetWritesOnePin := by
  intro b index fn pull used s hv hlo hhi
  obtain ⟨k, hk⟩ := exists_localIndex hlo hhi
  have hglobal : base b + k.val = index.toNat := localIndex_eq_some_iff.mp hk
  refine ⟨_, exec_bankSet_of_some fn pull used hv hk, ?_⟩
  rw [State.ok_bank, State.setBank_bank]
  refine ⟨fun j => ?_, Bank.setPin_with_pins .., State.setBank_ok_frame ..⟩
  have hj : k = j ↔ base b + j.val = index.toNat := by rw [Fin.ext_iff]; omega
  simp only [Bank.setPin_pins_getElem, hj]

/-- After an earlier BANK.SET of the same pin, BANK.SET does what it would have done without it. -/
theorem exec_bankSet_bankSet {b : BankSel} {index : BitVec 8} {fn : GpioFunction} {pull : PullMode} {used : Bool}
    {s t : State} (h : exec (.bankSet b index fn pull used) s = .next t) (fn' : GpioFunction) (pull' : PullMode)
    (used' : Bool) : exec (.bankSet b index fn' pull' used') t = exec (.bankSet b index fn' pull' used') s := by
  cases hv : (s.bank b).valid with
  | false =>
    have ht : exec (.bankSet b index fn pull used) s = .next (answered s (.error (.bankNotInitialised b))) :=
      invalidBankIsNotUsed b index fn pull used s hv _ (by simp)
    cases ht.symm.trans h
    exact exec_withResponse _ s _
  | true =>
    cases hk : localIndex b index with
    | none =>
      cases (exec_bankSet_of_none fn pull used hv hk).symm.trans h
      exact exec_withResponse _ s _
    | some k =>
      cases (exec_bankSet_of_some fn pull used hv hk).symm.trans h
      set t := s.setBank b ((s.bank b).setPin k ⟨fn, pull, used⟩) with ht
      have hvt : (t.bank b).valid = true := by simpa [ht] using hv
      calc
        exec (.bankSet b index fn' pull' used') (t.ok .nothing)
        _ = exec (.bankSet b index fn' pull' used') t := exec_withResponse _ t _
        _ = .next ((t.setBank b ((t.bank b).setPin k ⟨fn', pull', used'⟩)).ok .nothing) :=
          exec_bankSet_of_some fn' pull' used' hvt hk
        _ = .next ((s.setBank b ((s.bank b).setPin k ⟨fn', pull', used'⟩)).ok .nothing) := by simp [ht]
        _ = exec (.bankSet b index fn' pull' used') s := (exec_bankSet_of_some fn' pull' used' hv hk).symm

/-- Settles O36: the second BANK.SET is one on the state before the first. -/
theorem lastBankSetWins : Obligations.LastBankSetWins := by
  intro b index fn fn' pull pull' used used' s
  refine ⟨fun t ht => exec_bankSet_bankSet ht fn' pull' used', fun hv hlo hhi => ?_⟩
  obtain ⟨t, ht, -, -, -, -, -, hresp⟩ := bankSetWritesOnePin b index fn pull used s hv hlo hhi
  obtain ⟨u, hu, hpins, -, -, -, -, hresp'⟩ := bankSetWritesOnePin b index fn' pull' used' s hv hlo hhi
  refine ⟨t, u, ht, hresp, (exec_bankSet_bankSet ht fn' pull' used').trans hu, hresp', fun k hk => ?_⟩
  rw [hpins k, if_pos hk]

/-! ### The bytes of a bank as numbers (R30, R31, R145) -/

/-- A field placed above the bits in use adds its value at that bit. -/
theorem toNat_or_shiftLeft {n k : Nat} {low : BitVec 8} (field : BitVec n) (hlow : low.toNat < 2 ^ k)
    (hfit : n + k ≤ 8) : (low ||| field.setWidth 8 <<< k).toNat = low.toNat + 2 ^ k * field.toNat := by
  have hshift : field.toNat * 2 ^ k < 2 ^ 8 :=
    calc
      field.toNat * 2 ^ k < 2 ^ n * 2 ^ k := Nat.mul_lt_mul_of_pos_right field.isLt (Nat.two_pow_pos k)
      _ = 2 ^ (n + k) := (Nat.pow_add 2 n k).symm
      _ ≤ 2 ^ 8 := Nat.pow_le_pow_right (by decide) hfit
  have hfield : field.toNat < 2 ^ 8 := lt_of_lt_of_le field.isLt (Nat.pow_le_pow_right (by decide) (by omega))
  rw [BitVec.toNat_or, BitVec.toNat_shiftLeft, BitVec.toNat_setWidth, Nat.mod_eq_of_lt hfield, Nat.shiftLeft_eq,
    Nat.mod_eq_of_lt hshift, Nat.or_comm, Nat.mul_comm, ← Nat.two_pow_add_eq_or_of_lt hlow, Nat.add_comm]

theorem toNat_pack (fn : BitVec 3) (pl : BitVec 2) (us : BitVec 1) :
    (pack fn pl us).toNat = fn.toNat + 32 * pl.toNat + 128 * us.toNat := by
  have hfn : (fn.setWidth 8).toNat = fn.toNat := BitVec.toNat_setWidth_of_le (by decide)
  have hpl : (fn.setWidth 8 ||| pl.setWidth 8 <<< 5).toNat = fn.toNat + 32 * pl.toNat := by
    rw [toNat_or_shiftLeft pl (by omega) (by decide), hfn]; rfl
  rw [pack, toNat_or_shiftLeft us (by omega) (by decide), hpl]; rfl

theorem toNat_usedCode (used : Bool) : 128 * (usedCode used).toNat = if used then 128 else 0 := by
  cases used <;> rfl

theorem Pin.toNat_byte (p : Pin) :
    p.byte.toNat = p.fn.code.toNat + 32 * p.pull.code.toNat + (if p.used then 128 else 0) := by
  rw [Pin.byte, toNat_pack, toNat_usedCode]

section
variable {n : Nat} (bk : Bank n)

theorem Bank.toNat_control :
    bk.control.toNat = bk.drive.code.toNat + 16 * bk.slew.code.toNat + 64 * bk.hyst.code.toNat := by
  have hdrive : (bk.drive.code.setWidth 8).toNat = bk.drive.code.toNat := BitVec.toNat_setWidth_of_le (by decide)
  have hslew : (bk.drive.code.setWidth 8 ||| bk.slew.code.setWidth 8 <<< 4).toNat =
      bk.drive.code.toNat + 16 * bk.slew.code.toNat := by
    rw [toNat_or_shiftLeft bk.slew.code (by omega) (by decide), hdrive]; rfl
  rw [Bank.control, toNat_or_shiftLeft bk.hyst.code (by omega) (by decide), hslew]; rfl

theorem Bank.toNat_backPower : bk.backPower.toNat = bk.bp.code.toNat := BitVec.toNat_setWidth_of_le (by decide)

theorem Bank.bytes_getElem?_pin (k : Fin n) : bk.bytes[2 + k.val]? = some bk.pins[k].byte := by
  rw [Nat.add_comm]
  simp [Bank.bytes]

end

/-! ### BANK.ENCODE (R145, R146) -/

theorem exec_bankEncode_of_valid {b : BankSel} {s : State} (hv : (s.bank b).valid = true) :
    exec (.bankEncode b) s = .next (answered s (.ok (.bytes (s.bank b).bytes))) := by
  simp [exec, execBankEncode, hv, State.ok]

/-- Settles O37: the bytes of the payload by position. -/
theorem bankEncodeAnswersThePayload : Obligations.BankEncodeAnswersThePayload := by
  intro b s hv
  refine ⟨_, exec_bankEncode_of_valid hv, by rw [Bank.bytes_length_eq, Nat.add_comm], ?_, ?_, fun k => ?_⟩
  · exact congrArg some (Bank.toNat_control _)
  · exact congrArg some (Bank.toNat_backPower _)
  · rw [List.getElem?_map, Bank.bytes_getElem?_pin, Option.map_some, Pin.toNat_byte]

/-- With every code 0, every byte of the payload is 0. -/
theorem Bank.init_default_bytes (n : Nat) :
    (Bank.init n .default .default .default .none).bytes = List.replicate (2 + n) 0#8 := by
  have hcontrol : (Bank.init n .default .default .default .none).control = 0#8 :=
    BitVec.eq_of_toNat_eq (Bank.toNat_control _)
  have hbackPower : (Bank.init n .default .default .default .none).backPower = 0#8 := rfl
  have hpin : Pin.unused.byte = 0#8 := rfl
  have hpins : (Bank.init n .default .default .default .none).pins.toList.map Pin.byte = List.replicate n 0#8 := by
    rw [Bank.init, Vector.toList_replicate, List.map_replicate, hpin]
  rw [Bank.bytes, hcontrol, hbackPower, hpins, Nat.add_comm]
  rfl

/-- Settles O38: BANK.INIT leaves a valid bank, `Bank.init` of the defaults. -/
theorem defaultBankEncodesAsZeros : Obligations.DefaultBankEncodesAsZeros := by
  refine ⟨fun n bk => by rw [Bank.bytes_length_eq, Nat.add_comm], fun b s t ht => ?_⟩
  have hbank : t.bank b = Bank.init b.pinCount .default .default .default .none := by
    cases (exec_bankInit b .default .default .default .none s).symm.trans ht
    simp
  rw [exec_bankEncode_of_valid (by rw [hbank]; rfl), hbank, Bank.init_default_bytes]

/-! ### The scan of BANK.CHECK (R147, R148) -/

theorem allowedRange_eq_assignable (b : BankSel) : allowedRange b = assignable b := by cases b <;> rfl

theorem two_le_assignable (b : BankSel) : 2 ≤ (assignable b).1 := by cases b <;> decide

theorem outsideBank_iff {b : BankSel} {i : BitVec 8} (h2 : 2 ≤ i.toNat) :
    outsideBank b i = true ↔ i.toNat < (assignable b).1 ∨ (assignable b).2 < i.toNat := by
  cases b with
  | bank0 => simp [outsideBank, assignable]; omega
  | bank1 => simp [outsideBank, assignable]

/-- The three checks of one entry, by the range of R148. -/
theorem indexFault_eq (b : BankSel) (seen : Bytes) (i : BitVec 8) :
    indexFault b seen i =
      if i.toNat < 2 then some (.reservedIndex i)
      else if i.toNat < (assignable b).1 ∨ (assignable b).2 < i.toNat then
        some (.range i b (assignable b).1 (assignable b).2)
      else if i ∈ seen then some (.duplicate i)
      else none := by
  have hreserved : (i.toNat = 0 ∨ i.toNat = 1) ↔ i.toNat < 2 := by omega
  by_cases h2 : i.toNat < 2
  · simp [indexFault, hreserved, h2]
  · have houtside := outsideBank_iff (b := b) (Nat.not_lt.mp h2)
    by_cases hout : i.toNat < (assignable b).1 ∨ (assignable b).2 < i.toNat
    · simp [indexFault, hreserved, h2, houtside, hout, allowedRange_eq_assignable]
    · simp [indexFault, hreserved, h2, houtside, hout]

section
variable {b : BankSel} {seen : Bytes} {i : BitVec 8}

theorem indexFault_eq_none :
    indexFault b seen i = none ↔ ((assignable b).1 ≤ i.toNat ∧ i.toNat ≤ (assignable b).2) ∧ i ∉ seen := by
  have hlo := two_le_assignable b
  rw [indexFault_eq]
  split
  · simp; omega
  · split
    · simp; omega
    · have hin : (assignable b).1 ≤ i.toNat ∧ i.toNat ≤ (assignable b).2 := by omega
      simp [hin]

theorem indexFault_of_reserved (h : i.toNat < 2) : indexFault b seen i = some (.reservedIndex i) := by
  rw [indexFault_eq, if_pos h]

theorem indexFault_of_outside (h2 : 2 ≤ i.toNat) (hout : i.toNat < (assignable b).1 ∨ (assignable b).2 < i.toNat) :
    indexFault b seen i = some (.range i b (assignable b).1 (assignable b).2) := by
  rw [indexFault_eq, if_neg (Nat.not_lt.mpr h2), if_pos hout]

theorem indexFault_of_duplicate (hlo : (assignable b).1 ≤ i.toNat) (hhi : i.toNat ≤ (assignable b).2)
    (hseen : i ∈ seen) : indexFault b seen i = some (.duplicate i) := by
  have h2 := two_le_assignable b
  rw [indexFault_eq, if_neg (by omega), if_neg (by omega), if_pos hseen]

end

theorem definitionFault_cons_of_none {b : BankSel} {seen : Bytes} {i : BitVec 8} (h : indexFault b seen i = none)
    (rest : Bytes) : definitionFault b seen (i :: rest) = definitionFault b (i :: seen) rest := by
  simp [definitionFault, h]

theorem definitionFault_cons_of_some {b : BankSel} {seen : Bytes} {i : BitVec 8} {e : Error}
    (h : indexFault b seen i = some e) (rest : Bytes) : definitionFault b seen (i :: rest) = some e := by
  simp [definitionFault, h]

/-- The scan passes a list when every entry is assignable and not among those before it. -/
theorem definitionFault_eq_none {b : BankSel} {l : Bytes} : ∀ {seen : Bytes},
    definitionFault b seen l = none ↔ goodDefinition b l ∧ ∀ i ∈ l, i ∉ seen := by
  induction l with
  | nil => simp [definitionFault, goodDefinition]
  | cons i rest ih =>
    intro seen
    cases hi : indexFault b seen i with
    | some e =>
      have hbad : ¬(((assignable b).1 ≤ i.toNat ∧ i.toNat ≤ (assignable b).2) ∧ i ∉ seen) := by
        rw [← indexFault_eq_none, hi]
        simp
      rw [definitionFault_cons_of_some hi]
      simp only [reduceCtorEq, false_iff]
      rintro ⟨⟨hrange, -⟩, hseen⟩
      exact hbad ⟨hrange i List.mem_cons_self, hseen i List.mem_cons_self⟩
    | none =>
      obtain ⟨hrange, hseen⟩ := indexFault_eq_none.mp hi
      rw [definitionFault_cons_of_none hi, ih]
      have hnew : (∀ j ∈ rest, j ∉ i :: seen) ↔ i ∉ rest ∧ ∀ j ∈ rest, j ∉ seen := by
        simp only [List.mem_cons, not_or, imp_and, forall_and, List.forall_mem_ne']
      simp only [goodDefinition, hnew, List.forall_mem_cons, List.nodup_cons, hrange, hseen, not_false_eq_true,
        true_and, and_self, and_assoc]
      tauto

theorem definitionFault_nil_eq_none {b : BankSel} {l : Bytes} : definitionFault b [] l = none ↔ goodDefinition b l := by
  simp [definitionFault_eq_none]

/-- The scan goes on past a list it passes, those entries being seen. -/
theorem definitionFault_append {b : BankSel} {before : Bytes} (rest : Bytes) : ∀ {seen : Bytes},
    definitionFault b seen before = none →
      definitionFault b seen (before ++ rest) = definitionFault b (before.reverse ++ seen) rest := by
  induction before with
  | nil => simp
  | cons i before ih =>
    intro seen h
    cases hi : indexFault b seen i with
    | some e => simp [definitionFault_cons_of_some hi] at h
    | none =>
      rw [definitionFault_cons_of_none hi] at h
      rw [List.cons_append, definitionFault_cons_of_none hi, ih h]
      simp

/-! ### BANK.CHECK (R147 to R149) -/

theorem exec_bankCheck_of_none {b : BankSel} {l : Bytes} (h : definitionFault b [] l = none) (s : State) :
    exec (.bankCheck b l) s = .next (answered s (.ok .nothing)) := by
  simp [exec, execBankCheck, h, State.ok]

theorem exec_bankCheck_of_some {b : BankSel} {l : Bytes} {e : Error} (h : definitionFault b [] l = some e) (s : State) :
    exec (.bankCheck b l) s = .next (answered s (.error e)) := by
  simp [exec, execBankCheck, h, State.raise]

/-- Settles O39: the scan finds no fault exactly in a good definition. -/
theorem bankCheckPassesExactlyGoodDefinitions : Obligations.BankCheckPassesExactlyGoodDefinitions := by
  refine fun b l s => ⟨fun h => exec_bankCheck_of_none (definitionFault_nil_eq_none.mpr h) s, fun h => ?_⟩
  rw [← definitionFault_nil_eq_none] at h
  obtain ⟨e, he⟩ := Option.ne_none_iff_exists'.mp h
  exact ⟨e, exec_bankCheck_of_some he s⟩

/-- BANK.CHECK answers the fault of the first entry that has one, whatever follows it. -/
theorem exec_bankCheck_first_fault {b : BankSel} {before : Bytes} {i : BitVec 8} {e : Error}
    (hgood : goodDefinition b before) (hi : indexFault b before.reverse i = some e) (after : Bytes) (s : State) :
    exec (.bankCheck b (before ++ i :: after)) s = .next (answered s (.error e)) := by
  refine exec_bankCheck_of_some ?_ s
  rw [definitionFault_append _ (definitionFault_nil_eq_none.mpr hgood), List.append_nil]
  exact definitionFault_cons_of_some hi after

/-- Settles O40: the three faults of one entry, in the order of its checks. -/
theorem bankCheckReportsTheFirstViolation : Obligations.BankCheckReportsTheFirstViolation := by
  intro b before after i s hgood
  refine ⟨fun h => ?_, fun h2 hout => ?_, fun hlo hhi hmem => ?_⟩
  · exact exec_bankCheck_first_fault hgood (indexFault_of_reserved h) after s
  · exact exec_bankCheck_first_fault hgood (indexFault_of_outside h2 hout) after s
  · exact exec_bankCheck_first_fault hgood (indexFault_of_duplicate hlo hhi (List.mem_reverse.mpr hmem)) after s

end Sys2Proof.Machine

/-! PROOFS. The atom framer (42_atom_framer.md): the CRC against its MSB-first form (R180, R181), the layout of a frame
(R183, R184) and of a VendorInfo payload (R185, R186), and the strings that are too long for one (R187). -/

namespace Sys2Proof.Machine

open Sys2Proof.Claims

/-! ### Bit reversal -/

theorem reverse_xor {w : Nat} (x y : BitVec w) : (x ^^^ y).reverse = x.reverse ^^^ y.reverse := by
  apply BitVec.eq_of_getMsbD_eq
  simp [BitVec.getMsbD_reverse]

/-- Read backwards, a right shift is a left shift. -/
theorem reverse_ushiftRight {w : Nat} (x : BitVec w) (n : Nat) : (x >>> n).reverse = x.reverse <<< n := by
  apply BitVec.eq_of_getMsbD_eq
  simp [BitVec.getMsbD_reverse, Nat.add_comm]

/-- Read backwards, a byte in the low half of a word is the byte read backwards in the high half. -/
theorem reverse_setWidth_byte (b : BitVec 8) : (b.setWidth 16).reverse = b.reverse.setWidth 16 <<< 8 := by
  apply BitVec.eq_of_getMsbD_eq
  intro i hi
  simp [BitVec.getMsbD_reverse, BitVec.getMsbD_setWidth, hi]

/-! ### CRC16 (R180, R181) -/

/-- One pass of the rightward loop, read backwards, is one pass of the leftward loop. -/
theorem reverse_crcShift (c : BitVec 16) :
    (crcShift c).reverse = if c.reverse.msb then c.reverse <<< 1 ^^^ 0x8005#16 else c.reverse <<< 1 := by
  have hpoly : crcReversedPoly.reverse = 0x8005#16 := rfl
  rw [crcShift, BitVec.msb_reverse]
  split
  · rw [reverse_xor, reverse_ushiftRight, hpoly]
  · exact reverse_ushiftRight c 1

theorem msbShifts_reverse (n : Nat) (c : BitVec 16) : msbShifts n c.reverse = (crcShifts n c).reverse := by
  induction n generalizing c with
  | zero => rfl
  | succ n ih => rw [msbShifts, crcShifts, ← ih, reverse_crcShift]

theorem msbCrc_map_reverse (l : Bytes) : msbCrc (l.map BitVec.reverse) = (crc16 l).reverse := by
  rw [msbCrc, List.foldl_map]
  refine List.foldl_hom (init := 0#16) BitVec.reverse fun c b => ?_
  rw [crcByte, ← msbShifts_reverse, reverse_xor, reverse_setWidth_byte]

/-- Settles O41: every pass of the two loops mirrors the other, so their results do. -/
theorem crc16AgreesWithMsbFirstForm : Obligations.Crc16AgreesWithMsbFirstForm := by
  intro l s
  rw [msbCrc_map_reverse, BitVec.reverse_reverse_eq]
  rfl

/-- A zero byte leaves the initial value as it is. -/
theorem crc16_zero_cons (l : Bytes) : crc16 (0#8 :: l) = crc16 l := by
  have hzero : crcByte 0#16 0#8 = 0#16 := by decide
  rw [crc16, List.foldl_cons, hzero, crc16]

theorem crc16_replicate_zero_append (n : Nat) (l : Bytes) : crc16 (List.replicate n 0#8 ++ l) = crc16 l := by
  induction n with
  | zero => rfl
  | succ n ih => rw [List.replicate_succ, List.cons_append, crc16_zero_cons, ih]

/-- Settles O42: CRC16 answers `crc16` of its bytes. -/
theorem crc16IgnoresLeadingZeros : Obligations.Crc16IgnoresLeadingZeros := by
  intro n l s
  simp only [exec, execCrc16, crc16_replicate_zero_append]

/-! ### The fields of a frame by offset (R183, R184) -/

section
variable (t : AtomType) (q : BitVec 16) (p : Bytes)

theorem frame_tag : (frame t q p).take 2 = le16 t.tag := rfl

theorem frame_seq : ((frame t q p).drop 2).take 2 = le16 q := rfl

theorem frame_dataLength : ((frame t q p).drop 4).take 4 = le32 (BitVec.ofNat 32 (p.length + 2)) := rfl

theorem frame_payload : ((frame t q p).drop 8).take p.length = p := List.take_left

theorem frame_covered : (frame t q p).take (8 + p.length) = frameBody t q p :=
  List.take_left' (by rw [frameBody_length, Nat.add_comm])

theorem frame_crc : (frame t q p).drop (8 + p.length) = le16 (crc16 (frameBody t q p)) :=
  List.drop_left' (by rw [frameBody_length, Nat.add_comm])

end

/-! ### ATOM.FRAME (R183) -/

/-- Settles O43: the fields are read off `frame` by offset, and `data_length` fits. -/
theorem atomFrameLaysOutTheFrame : Obligations.AtomFrameLaysOutTheFrame := by
  intro t q p s hfits
  refine ⟨frame t q p, exec_atomFrame_of_fits hfits, frame_length t q p, ?_, ?_, ?_, frame_payload t q p, ?_⟩
  · rw [frame_tag, leNat_le16]
  · rw [frame_seq, leNat_le16]
  · rw [frame_dataLength, leNat_le32, BitVec.toNat_ofNat, Nat.mod_eq_of_lt (Nat.lt_succ_of_le hfits)]
  · rw [frame_crc, frame_covered, leNat_le16]

/-- Settles O44: ATOM.FRAME checks the length first. -/
theorem atomFrameTooLongIsLengthOverflow : Obligations.AtomFrameTooLongIsLengthOverflow :=
  fun _ _ _ _ hlong => if_pos hlong

/-! ### The fields of a VendorInfo payload by offset (R185, R186) -/

section
variable {uuid : Bytes} (huuid : uuid.length = 16) (pid pver : BitVec 16) (vendor product : Bytes)
include huuid

/-- The UUID bytes are stored in reverse (R186). -/
theorem vinfoBytes_uuid {j : Nat} (hj : j < 16) :
    (vinfoBytes uuid pid pver vendor product)[j]? = uuid[15 - j]? := by
  have hrev : j < uuid.reverse.length := by rw [List.length_reverse, huuid]; exact hj
  simp only [vinfoBytes, List.append_assoc]
  rw [List.getElem?_append_left hrev, List.getElem?_reverse (by omega), huuid]

/-- What stands `k` bytes after the UUID. -/
theorem vinfoBytes_drop (k : Nat) : (vinfoBytes uuid pid pver vendor product).drop (16 + k) =
    (le16 pid ++ (le16 pver ++
      (BitVec.ofNat 8 vendor.length :: BitVec.ofNat 8 product.length :: (vendor ++ product)))).drop k := by
  simp only [vinfoBytes, List.append_assoc, ← List.drop_drop]
  rw [List.drop_left' (by rw [List.length_reverse, huuid])]
  rfl

theorem vinfoBytes_productId : ((vinfoBytes uuid pid pver vendor product).drop 16).take 2 = le16 pid := by
  rw [vinfoBytes_drop huuid _ _ _ _ 0]; rfl

theorem vinfoBytes_productVersion : ((vinfoBytes uuid pid pver vendor product).drop 18).take 2 = le16 pver := by
  rw [vinfoBytes_drop huuid _ _ _ _ 2]; rfl

theorem vinfoBytes_vendorLength :
    (vinfoBytes uuid pid pver vendor product)[20]? = some (BitVec.ofNat 8 vendor.length) := by
  rw [← List.head?_drop, vinfoBytes_drop huuid _ _ _ _ 4]; rfl

theorem vinfoBytes_productLength :
    (vinfoBytes uuid pid pver vendor product)[21]? = some (BitVec.ofNat 8 product.length) := by
  rw [← List.head?_drop, vinfoBytes_drop huuid _ _ _ _ 5]; rfl

theorem vinfoBytes_strings : (vinfoBytes uuid pid pver vendor product).drop 22 = vendor ++ product :=
  vinfoBytes_drop huuid pid pver vendor product 6

end

/-! ### The string check of VINFO.FORMAT and STREAM.APPEND_VINFO (R187) -/

theorem vinfoFault_of_vendor {vendor : Bytes} (product : Bytes) (h : 255 < vendor.length) :
    vinfoFault vendor product = some (.oversizeString .vendor vendor.length) := if_pos h

theorem vinfoFault_of_product {vendor product : Bytes} (hvendor : vendor.length ≤ 255) (h : 255 < product.length) :
    vinfoFault vendor product = some (.oversizeString .product product.length) :=
  (if_neg (Nat.not_lt.mpr hvendor)).trans (if_pos h)

/-- The append procedure itself checks no string (R223). -/
theorem append_response_ne_oversizeString (t : AtomType) (p : Bytes) (s : State) (f : StringField) (n : Nat) :
    (append t p s).response ≠ some (.error (.oversizeString f n)) := by
  rcases append_cases t p s with ⟨-, h⟩ | ⟨-, -, h⟩ | ⟨-, -, -, h⟩ | ⟨-, -, -, h⟩ <;> simp [h]

section
variable {uuid : Bytes} {pid pver : BitVec 16} {vendor product : Bytes} {i : Instr} {s : State}

theorem exec_vinfoFormat_of_fits (hvendor : vendor.length ≤ 255) (hproduct : product.length ≤ 255) :
    exec (.vinfoFormat uuid pid pver vendor product) s =
      .next (answered s (.ok (.bytes (vinfoBytes uuid pid pver vendor product)))) := by
  simp only [exec, execVinfoFormat, vinfoFault_eq_none.mpr ⟨hvendor, hproduct⟩, State.ok]

theorem exec_streamAppendVinfo_of_fits (hvendor : vendor.length ≤ 255) (hproduct : product.length ≤ 255) :
    exec (.streamAppendVinfo uuid pid pver vendor product) s =
      .next (append .vendorInfo (vinfoBytes uuid pid pver vendor product) s) := by
  simp only [exec, execStreamAppendVinfo, vinfoFault_eq_none.mpr ⟨hvendor, hproduct⟩]

variable (hi : i ∈ [.vinfoFormat uuid pid pver vendor product, .streamAppendVinfo uuid pid pver vendor product])
include hi

/-- A string fault is all that either command answers. -/
theorem exec_of_vinfoFault {e : Error} (h : vinfoFault vendor product = some e) :
    exec i s = .next (answered s (.error e)) := by
  simp only [List.mem_cons, List.not_mem_nil, or_false] at hi
  rcases hi with rfl | rfl
  · simp only [exec, execVinfoFormat, h, State.raise]
  · simp only [exec, execStreamAppendVinfo, h, State.raise]

/-- With no string fault, VINFO.FORMAT answers the payload and STREAM.APPEND_VINFO what APPEND answers. -/
theorem exec_response_ne_oversizeString (hvendor : vendor.length ≤ 255) (hproduct : product.length ≤ 255)
    {t : State} (ht : exec i s = .next t) (f : StringField) (n : Nat) :
    t.response ≠ some (.error (.oversizeString f n)) := by
  simp only [List.mem_cons, List.not_mem_nil, or_false] at hi
  rcases hi with rfl | rfl
  · cases (exec_vinfoFormat_of_fits hvendor hproduct).symm.trans ht
    simp
  · cases (exec_streamAppendVinfo_of_fits hvendor hproduct).symm.trans ht
    exact append_response_ne_oversizeString _ _ s f n

end

/-! ### VINFO.FORMAT (R185 to R187) -/

/-- Settles O45: the fields are read off `vinfoBytes` by offset, and both lengths fit a byte. -/
theorem vinfoFormatLaysOutThePayload : Obligations.VinfoFormatLaysOutThePayload := by
  intro uuid pid pver vendor product s huuid hvendor hproduct
  have hstrings := vinfoBytes_strings huuid pid pver vendor product
  refine ⟨_, exec_vinfoFormat_of_fits hvendor hproduct, by rw [vinfoBytes_length, huuid],
    fun j hj => vinfoBytes_uuid huuid pid pver vendor product hj, ?_, ?_, ?_, ?_, ?_, ?_⟩
  · rw [vinfoBytes_productId huuid, leNat_le16]
  · rw [vinfoBytes_productVersion huuid, leNat_le16]
  · rw [vinfoBytes_vendorLength huuid, Option.map_some, BitVec.toNat_ofNat,
      Nat.mod_eq_of_lt (Nat.lt_succ_of_le hvendor)]
  · rw [vinfoBytes_productLength huuid, Option.map_some, BitVec.toNat_ofNat,
      Nat.mod_eq_of_lt (Nat.lt_succ_of_le hproduct)]
  · rw [hstrings, List.take_left]
  · rw [← List.drop_drop, hstrings, List.drop_left]

/-- Settles O46: both commands answer the fault of the string check and no other OVERSIZE_STRING, and the payload ends
in the strings. -/
theorem oversizeStringIsRefused : Obligations.OversizeStringIsRefused := by
  intro uuid pid pver vendor product s
  refine ⟨fun i hi => ⟨fun h => ?_, fun hvendor h => ?_, fun hvendor hproduct t f n ht => ?_⟩,
    fun huuid hvendor hproduct => ?_⟩
  · exact exec_of_vinfoFault hi (vinfoFault_of_vendor product h)
  · exact exec_of_vinfoFault hi (vinfoFault_of_product hvendor h)
  · exact exec_response_ne_oversizeString hi hvendor hproduct ht f n
  · exact ⟨_, exec_vinfoFormat_of_fits hvendor hproduct, vinfoBytes_strings huuid pid pver vendor product⟩

end Sys2Proof.Machine

/-! PROOFS. The stream builder (43_stream_builder.md): what each append command comes to (R220 to R231), the type
sequences a stream can hold (R237), and that no run from a state with the invariants stops (R232, R270). -/

namespace Sys2Proof.Machine

open Sys2Proof.Claims

/-! ### Runs -/

section
variable {s t : State} {n : Nat}

theorem run_of_step (h : step s = .next t) : Sys2Proof.core.run (n + 1) s = Sys2Proof.core.run n t := by
  simp only [Host.Core.run, core, h]

/-- A run whose next input is the command that spells `i` first performs `i` (R70, R101). -/
theorem run_of_exec {i : Instr} {rest : List HostEvent} (hi : i.wellFormed = true)
    (hp : s.pending = .command (encode i) :: rest) (h : exec i { s with pending := rest } = .next t) :
    Sys2Proof.core.run (n + 1) s = Sys2Proof.core.run n t :=
  run_of_step ((step_of_decode_ok hp (decodeOfEncodeIsIdentity i hi)).trans h)

end

/-! ### From a state with the invariants no step stops (R232, R270) -/

/-- The one fault of the block is that of STREAM.SERIALIZE, on a stream too long for its length field. -/
theorem exec_next_of_fits {s : State} (hfits : totalLen s.stream.atoms ≤ 4294967295) (i : Instr) :
    ∃ t, exec i s = .next t := by
  rcases exec_cases i s with ⟨r, h⟩ | ⟨b, v, -, -, h⟩ | ⟨-, h⟩ | ⟨ty, p, -, -, -, h⟩ | ⟨-, hlong, -⟩
  · exact ⟨_, h⟩
  · exact ⟨_, h⟩
  · exact ⟨_, h⟩
  · exact ⟨_, h⟩
  · exact absurd hfits (Nat.not_le.mpr hlong)

theorem step_next_of_inv {s : State} (hs : s.Inv) : ∃ t, step s = .next t := by
  rcases step_cases s with ⟨-, h⟩ | ⟨rest, -, h⟩ | ⟨c, rest, e, -, -, h⟩ | ⟨c, rest, i, -, -, h⟩
  · exact ⟨_, h⟩
  · exact ⟨_, h⟩
  · exact ⟨_, h⟩
  · rw [h]
    exact exec_next_of_fits (s := { s with pending := rest }) (Stream.Wf.fits hs) i

/-- Settles O17, by induction on the number of steps: each answers a next state and keeps the invariants. -/
theorem everyRunFromInvariantIsSafe : Obligations.EveryRunFromInvariantIsSafe := by
  intro n
  induction n with
  | zero => exact fun s _ => ⟨s, rfl⟩
  | succ n ih =>
    intro s hs
    obtain ⟨t, ht⟩ := step_next_of_inv hs
    obtain ⟨u, hu⟩ := ih t (stepKeepsStreamInvariants s t hs ht)
    exact ⟨u, (run_of_step ht).trans hu⟩

/-! ### The ordering table's columns (R220, R231) -/

theorem acceptMask_getLsbD (last : Option AtomType) (t : AtomType) :
    (acceptMask last).getLsbD (maskBit t) = decide (t ∈ acceptRow last) := by
  cases last with
  | none => cases t <;> rfl
  | some last => cases last <;> cases t <;> rfl

theorem typeMask_acceptRow (last : Option AtomType) : typeMask (acceptRow last) = acceptMask last := by
  cases last with
  | none => rfl
  | some last => cases last <;> rfl

theorem lastCode_eq_lastValue (last : Option AtomType) : lastCode last = lastValue last := by
  cases last with
  | none => rfl
  | some last => cases last <;> rfl

theorem tag_eq_maskBit (t : AtomType) : t.tag = BitVec.ofNat 16 (maskBit t + 1) := by cases t <;> rfl

/-! ### The append procedure by its checks (R223, R229 to R231) -/

/-- The state after an accepted append: the three writes of R223 and the answer. -/
def State.withAtom (s : State) (t : AtomType) (p : Bytes) : State :=
  (s.setStream (s.stream.push t p)).ok (.number s.stream.count)

section
variable (s : State) (t : AtomType) (p : Bytes)

@[simp] theorem State.withAtom_response : (s.withAtom t p).response = some (.ok (.number s.stream.count)) := rfl
@[simp] theorem State.withAtom_last : (s.withAtom t p).stream.last = some t := rfl
@[simp] theorem State.withAtom_count : (s.withAtom t p).stream.count = s.stream.count + 1#16 := rfl

/-- Not a simp lemma: the length of the new stream is read off `State.withAtom_totalLen`. -/
theorem State.withAtom_atoms :
    (s.withAtom t p).stream.atoms = s.stream.atoms ++ [⟨t, s.stream.count, p⟩] := rfl

@[simp] theorem State.withAtom_totalLen :
    totalLen (s.withAtom t p).stream.atoms = totalLen s.stream.atoms + (p.length + 10) := by
  simp [State.withAtom_atoms, totalLen_append]

end

section
variable {s : State} {t : AtomType} {p : Bytes}

theorem append_of_not_accepted (hrow : t ∉ acceptRow s.stream.last) :
    append t p s = s.raise (.orderingViolation t.tag (lastCode s.stream.last) (typeMask (acceptRow s.stream.last))) :=
  if_pos hrow

variable (hrow : t ∈ acceptRow s.stream.last)
include hrow

theorem append_of_full (hcount : s.stream.count.toNat = 65535) :
    append t p s = s.raise (.atomCountOverflow 65535) :=
  (if_neg (not_not_intro hrow)).trans (if_pos hcount)

theorem append_of_tooLong (hcount : s.stream.count.toNat < 65535)
    (hlong : 4294967295 < totalLen s.stream.atoms + p.length + 10) :
    append t p s = s.raise (.lengthOverflow p.length) :=
  (if_neg (not_not_intro hrow)).trans ((if_neg hcount.ne).trans (if_pos hlong))

theorem append_of_accepted (hcount : s.stream.count.toNat < 65535)
    (hfits : totalLen s.stream.atoms + p.length + 10 ≤ 4294967295) : append t p s = s.withAtom t p :=
  (if_neg (not_not_intro hrow)).trans ((if_neg hcount.ne).trans (if_neg (Nat.not_lt.mpr hfits)))

end

/-! ### The append commands (R224 to R227) -/

theorem exec_streamAppendGpio_of_valid {b : BankSel} {s : State} (hv : (s.bank b).valid = true) :
    exec (.streamAppendGpio b) s = .next (append (mapType b) (s.bank b).bytes s) :=
  if_pos hv

/-- A command whose payload is built without error comes to APPEND of its type and payload. -/
theorem exec_of_attempts {i : Instr} {s : State} {t : AtomType} {p : Bytes} (h : Attempts i s t p) :
    exec i s = .next (append t p s) := by
  cases i with
  | streamAppendVinfo =>
    obtain ⟨hvendor, hproduct, rfl, rfl⟩ := h
    exact exec_streamAppendVinfo_of_fits hvendor hproduct
  | streamAppendGpio b =>
    cases b <;> obtain ⟨hv, rfl, rfl⟩ := h <;> exact exec_streamAppendGpio_of_valid hv
  | streamAppendDtb | streamAppendCustom =>
    obtain ⟨rfl, rfl⟩ := h
    rfl
  | _ => exact h.elim

/-- An append command builds its payload, or answers the error of its strings or of its bank. -/
theorem attempts_or_error {i : Instr} (hi : isAppend i = true) (s : State) :
    (∃ t p, Attempts i s t p) ∨ ∃ e, exec i s = .next (answered s (.error e)) := by
  cases i with
  | streamAppendVinfo uuid pid pver vendor product =>
    cases hfault : vinfoFault vendor product with
    | none =>
      obtain ⟨hvendor, hproduct⟩ := vinfoFault_eq_none.mp hfault
      exact .inl ⟨_, _, hvendor, hproduct, rfl, rfl⟩
    | some e => exact .inr ⟨e, exec_of_vinfoFault (.tail _ (.head _)) hfault⟩
  | streamAppendGpio b =>
    cases hv : (s.bank b).valid with
    | false => exact .inr ⟨_, invalidBankIsNotUsed b 0#8 .input .default false s hv _ (.tail _ (.tail _ (.head _)))⟩
    | true => cases b <;> exact .inl ⟨_, _, hv, rfl, rfl⟩
  | streamAppendDtb | streamAppendCustom => exact .inl ⟨_, _, rfl, rfl⟩
  | _ => cases hi

/-- An append the ordering table accepts, of a stream with room, adds its atom. -/
theorem exec_of_accepted {i : Instr} {s : State} {t : AtomType} {p : Bytes} (h : Attempts i s t p)
    (hrow : t ∈ acceptRow s.stream.last) (hcount : s.stream.count.toNat < 65535)
    (hfits : totalLen s.stream.atoms + p.length + 10 ≤ 4294967295) : exec i s = .next (s.withAtom t p) := by
  rw [exec_of_attempts h, append_of_accepted hrow hcount hfits]

theorem mem_acceptRow_of_mask {last : Option AtomType} {t : AtomType}
    (h : (acceptMask last).getLsbD (maskBit t) = true) : t ∈ acceptRow last := by
  simpa [acceptMask_getLsbD] using h

/-- Settles O28: no type is in the row of GpioBank1Map. -/
theorem bank1MapEndsTheStream : Obligations.Bank1MapEndsTheStream := by
  intro i s hi hlast
  rcases attempts_or_error hi s with ⟨t, p, h⟩ | herror
  · have hrow : t ∉ acceptRow s.stream.last := by simp [hlast, acceptRow]
    exact ⟨_, by rw [exec_of_attempts h, append_of_not_accepted hrow]; rfl⟩
  · exact herror

/-- Settles O48: the append passes the three checks of R223. -/
theorem acceptedAppendAddsOneAtom : Obligations.AcceptedAppendAddsOneAtom := by
  intro i s t p h hmask hcount hfits
  exact exec_of_accepted h (mem_acceptRow_of_mask hmask) hcount hfits

/-- Settles O49: the first check fails, and the mask column is the set of the table's row. -/
theorem outOfOrderAppendIsRejected : Obligations.OutOfOrderAppendIsRejected := by
  intro i s t p h hmask
  have hrow : t ∉ acceptRow s.stream.last := by simpa [acceptMask_getLsbD] using hmask
  rw [exec_of_attempts h, append_of_not_accepted hrow, typeMask_acceptRow, lastCode_eq_lastValue, tag_eq_maskBit]
  rfl

/-- Settles O50: the ordering check passes and the count check fails. -/
theorem fullStreamIsAtomCountOverflow : Obligations.FullStreamIsAtomCountOverflow := by
  intro i s t p h hmask hcount
  rw [exec_of_attempts h, append_of_full (mem_acceptRow_of_mask hmask) hcount]
  rfl

/-- Settles O51: the first two checks pass and the length check fails. -/
theorem tooLongStreamIsLengthOverflow : Obligations.TooLongStreamIsLengthOverflow := by
  intro i s t p h hmask hcount hlong
  rw [exec_of_attempts h, append_of_tooLong (mem_acceptRow_of_mask hmask) hcount hlong]
  rfl

/-- Settles O47. -/
theorem streamInitEmptiesTheStream : Obligations.StreamInitEmptiesTheStream := fun _ => rfl

/-- Settles O52: each of the five appends is accepted, and the atoms together fit the image. -/
theorem fullSequenceIsNumberedInOrder : Obligations.FullSequenceIsNumberedInOrder := by
  intro uuid pid pver vendor product dtb custom s hstream hv0 hv1 huuid hvendor hproduct hlen
  have hlast : s.stream.last = none := by rw [hstream]
  have hcount : s.stream.count = 0#16 := by rw [hstream]
  have htotal : totalLen s.stream.atoms = 12 := by rw [hstream]; rfl
  refine ⟨_, _, _, _, _,
    exec_of_accepted ⟨hvendor, hproduct, rfl, rfl⟩ (by simp [hlast, acceptRow]) (by simp [hcount]) ?_, by simp [hcount],
    exec_of_accepted ⟨hv0, rfl, rfl⟩ (by simp [acceptRow]) (by simp [hcount]) ?_, by simp [hcount],
    exec_of_accepted ⟨rfl, rfl⟩ (by simp [acceptRow]) (by simp [hcount]) ?_, by simp [hcount],
    exec_of_accepted ⟨rfl, rfl⟩ (by simp [acceptRow]) (by simp [hcount]) ?_, by simp [hcount],
    exec_of_accepted ⟨hv1, rfl, rfl⟩ (by simp [acceptRow]) (by simp [hcount]) ?_, by simp [hcount]⟩ <;>
  · simp only [State.withAtom_totalLen, htotal, vinfoBytes_length, Bank.bytes_length_eq, huuid]
    omega

/-! ### The ordering table's language (R237) -/

theorem acceptsFrom_cons {last : Option AtomType} {t : AtomType} {ts : List AtomType} :
    acceptsFrom last (t :: ts) = true ↔ t ∈ acceptRow last ∧ acceptsFrom (some t) ts = true := by
  simp [acceptsFrom]

/-- A state whose row is larger accepts as much: only the first type is looked up in it. -/
theorem acceptsFrom_mono {last last' : Option AtomType} (hrow : acceptRow last ⊆ acceptRow last')
    {ts : List AtomType} (h : acceptsFrom last ts = true) : acceptsFrom last' ts = true := by
  cases ts with
  | nil => rfl
  | cons t ts =>
    obtain ⟨ht, hrest⟩ := acceptsFrom_cons.mp h
    exact acceptsFrom_cons.mpr ⟨hrow ht, hrest⟩

/-- After GpioBank1Map nothing more. -/
theorem acceptsFrom_gpioBank1Map_iff {ts : List AtomType} :
    acceptsFrom (some .gpioBank1Map) ts = true ↔ ts = [] := by
  cases ts <;> simp [acceptsFrom, acceptRow]

/-- After ManufCustomData any number of ManufCustomData, then at most one GpioBank1Map. -/
theorem acceptsFrom_manufCustomData_iff {ts : List AtomType} :
    acceptsFrom (some .manufCustomData) ts = true ↔
      ∃ (n : Nat) (bank1 : Bool),
        ts = List.replicate n .manufCustomData ++ (if bank1 then [.gpioBank1Map] else []) := by
  constructor
  · intro h
    induction ts with
    | nil => exact ⟨0, false, rfl⟩
    | cons t ts ih =>
      obtain ⟨hrow, hrest⟩ := acceptsFrom_cons.mp h
      rcases List.mem_pair.mp hrow with rfl | rfl
      · obtain ⟨n, bank1, rfl⟩ := ih hrest
        exact ⟨n + 1, bank1, rfl⟩
      · exact ⟨0, true, by simp [acceptsFrom_gpioBank1Map_iff.mp hrest]⟩
  · rintro ⟨n, bank1, rfl⟩
    induction n with
    | zero => cases bank1 <;> rfl
    | succ n ih => exact ih

/-- LinuxDTB has the row of ManufCustomData. -/
theorem acceptsFrom_linuxDtb {ts : List AtomType} :
    acceptsFrom (some .linuxDtb) ts = acceptsFrom (some .manufCustomData) ts := by
  cases ts <;> rfl

/-- After GpioBank0Map at most one LinuxDTB, and then as after ManufCustomData. -/
theorem acceptsFrom_gpioBank0Map_iff {ts : List AtomType} :
    acceptsFrom (some .gpioBank0Map) ts = true ↔
      ∃ (dtb : Bool) (rest : List AtomType), acceptsFrom (some .manufCustomData) rest = true ∧
        ts = (if dtb then [.linuxDtb] else []) ++ rest := by
  constructor
  · intro h
    cases ts with
    | nil => exact ⟨false, [], rfl, rfl⟩
    | cons t rest =>
      obtain ⟨hrow, hrest⟩ := acceptsFrom_cons.mp h
      rcases List.mem_cons.mp hrow with rfl | hrow
      · exact ⟨true, rest, acceptsFrom_linuxDtb.symm.trans hrest, rfl⟩
      · exact ⟨false, t :: rest, acceptsFrom_cons.mpr ⟨hrow, hrest⟩, rfl⟩
  · rintro ⟨dtb, rest, hrest, rfl⟩
    cases dtb with
    | false => exact acceptsFrom_mono (List.subset_cons_self _ _) hrest
    | true => exact acceptsFrom_cons.mpr ⟨.head _, acceptsFrom_linuxDtb.trans hrest⟩

/-- From Empty the first two types are fixed. -/
theorem acceptsFrom_none_iff {ts : List AtomType} :
    acceptsFrom none ts = true ↔ ts = [] ∨ ts = [.vendorInfo] ∨
      ∃ rest, acceptsFrom (some .gpioBank0Map) rest = true ∧ ts = [.vendorInfo, .gpioBank0Map] ++ rest := by
  constructor
  · intro h
    rcases ts with _ | ⟨t, ts⟩
    · exact .inl rfl
    obtain ⟨hrow, h⟩ := acceptsFrom_cons.mp h
    cases List.mem_singleton.mp hrow
    rcases ts with _ | ⟨t, ts⟩
    · exact .inr (.inl rfl)
    obtain ⟨hrow, h⟩ := acceptsFrom_cons.mp h
    cases List.mem_singleton.mp hrow
    exact .inr (.inr ⟨ts, h, rfl⟩)
  · rintro (rfl | rfl | ⟨rest, h, rfl⟩)
    · rfl
    · rfl
    · exact acceptsFrom_cons.mpr ⟨.head _, acceptsFrom_cons.mpr ⟨.head _, h⟩⟩

/-- The sequences the ordering table accepts from Empty are the language of R237. -/
theorem acceptsFrom_none_iff_language {ts : List AtomType} : acceptsFrom none ts = true ↔ Claims.Language ts := by
  simp only [acceptsFrom_none_iff, acceptsFrom_gpioBank0Map_iff, acceptsFrom_manufCustomData_iff, Claims.Language,
    List.append_assoc]
  constructor
  · rintro (h | h | ⟨_, ⟨dtb, _, ⟨n, bank1, rfl⟩, rfl⟩, h⟩)
    · exact .inl h
    · exact .inr (.inl h)
    · exact .inr (.inr ⟨dtb, n, bank1, h⟩)
  · rintro (h | h | ⟨dtb, n, bank1, h⟩)
    · exact .inl h
    · exact .inr (.inl h)
    · exact .inr (.inr ⟨_, ⟨dtb, _, ⟨n, bank1, rfl⟩, rfl⟩, h⟩)

/-! ### Inputs that build a stream of given types (R237) -/

/-- An append command of each type, with the shortest payload the host can give. -/
def appendInstr : AtomType → Instr
  | .vendorInfo => .streamAppendVinfo (List.replicate 16 0#8) 0#16 0#16 [] []
  | .gpioBank0Map => .streamAppendGpio .bank0
  | .linuxDtb => .streamAppendDtb []
  | .manufCustomData => .streamAppendCustom []
  | .gpioBank1Map => .streamAppendGpio .bank1

theorem appendInstr_wellFormed (t : AtomType) : (appendInstr t).wellFormed = true := by cases t <;> rfl

/-- BANK.INIT with every setting Default. -/
def defaultInit (b : BankSel) : Instr := .bankInit b .default .default .default .none

/-- The host's input that issues an instruction. -/
def inputOf (i : Instr) : HostEvent := .command (encode i)

/-- The host's inputs that append an atom of each type of `ts`. -/
def appendInputs (ts : List AtomType) : List HostEvent := ts.map fun t => inputOf (appendInstr t)

/-- The state after reset and a BANK.INIT of each bank, with `rest` still issued. -/
def initialised (rest : List HostEvent) : State :=
  { State.resetWith rest with
    bank0 := Bank.init 28 .default .default .default .none
    bank1 := Bank.init 18 .default .default .default .none
    response := some (.ok .nothing) }

theorem run_resetWith_defaultInit (n : Nat) (rest : List HostEvent) :
    Sys2Proof.core.run (n + 2)
        (State.resetWith (inputOf (defaultInit .bank0) :: inputOf (defaultInit .bank1) :: rest)) =
      Sys2Proof.core.run n (initialised rest) :=
  (run_of_exec (i := defaultInit .bank0) rfl rfl rfl).trans (run_of_exec (i := defaultInit .bank1) rfl rfl rfl)

/-- The stream has room for one atom of each type of `ts`, in that order; 30 bytes is the longest payload of
`appendInstr`. -/
structure CanAppend (s : State) (ts : List AtomType) : Prop where
  valid0 : s.bank0.valid = true
  valid1 : s.bank1.valid = true
  accepts : acceptsFrom s.stream.last ts = true
  room : s.stream.count.toNat + ts.length ≤ 65535
  fits : totalLen s.stream.atoms + 40 * ts.length ≤ 4294967295

theorem exists_attempts_appendInstr {s : State} (hv0 : s.bank0.valid = true) (hv1 : s.bank1.valid = true)
    (t : AtomType) : ∃ p, Attempts (appendInstr t) s t p ∧ p.length ≤ 30 := by
  cases t with
  | vendorInfo => exact ⟨_, ⟨Nat.zero_le _, Nat.zero_le _, rfl, rfl⟩, by simp⟩
  | gpioBank0Map => exact ⟨_, ⟨hv0, rfl, rfl⟩, by simp⟩
  | gpioBank1Map => exact ⟨_, ⟨hv1, rfl, rfl⟩, by simp⟩
  | linuxDtb | manufCustomData => exact ⟨_, ⟨rfl, rfl⟩, Nat.zero_le _⟩

theorem CanAppend.withPending {s : State} {ts : List AtomType} (h : CanAppend s ts) (rest : List HostEvent) :
    CanAppend { s with pending := rest } ts :=
  ⟨h.valid0, h.valid1, h.accepts, h.room, h.fits⟩

/-- The append of the first type succeeds and leaves room for the others. -/
theorem CanAppend.exec_appendInstr {s : State} {t : AtomType} {ts : List AtomType} (h : CanAppend s (t :: ts)) :
    ∃ p, exec (appendInstr t) s = .next (s.withAtom t p) ∧ CanAppend (s.withAtom t p) ts := by
  obtain ⟨hv0, hv1, haccepts, hroom, hfits⟩ := h
  obtain ⟨hrow, hrest⟩ := acceptsFrom_cons.mp haccepts
  obtain ⟨p, hp, hlen⟩ := exists_attempts_appendInstr hv0 hv1 t
  rw [List.length_cons] at hroom hfits
  refine ⟨p, exec_of_accepted hp hrow (by omega) (by omega), hv0, hv1, hrest, ?_, ?_⟩
  · rw [State.withAtom_count]
    bv_omega
  · rw [State.withAtom_totalLen]
    omega

/-- The appends run one after another, each adding its type. -/
theorem run_appendInputs {ts : List AtomType} {s : State} (h : CanAppend s ts) (hp : s.pending = appendInputs ts) :
    ∃ u : State, Sys2Proof.core.run ts.length s = .next u ∧
      u.stream.atoms.map Atom.type = s.stream.atoms.map Atom.type ++ ts := by
  induction ts generalizing s with
  | nil => exact ⟨s, rfl, by simp⟩
  | cons t ts ih =>
    obtain ⟨p, hexec, hcan⟩ := (h.withPending (appendInputs ts)).exec_appendInstr
    obtain ⟨u, hrun, htypes⟩ := ih hcan rfl
    refine ⟨u, (run_of_exec (appendInstr_wellFormed t) hp hexec).trans hrun, ?_⟩
    simp [htypes, State.withAtom_atoms]

theorem canAppend_initialised {ts : List AtomType} (haccepts : acceptsFrom none ts = true)
    (hlen : ts.length ≤ 65535) (rest : List HostEvent) : CanAppend (initialised rest) ts := by
  have hcount : (initialised rest).stream.count.toNat = 0 := rfl
  have htotal : totalLen (initialised rest).stream.atoms = 12 := rfl
  exact ⟨rfl, rfl, haccepts, by omega, by omega⟩

/-- Settles O29: the ordering table accepts exactly the language, a stream with the invariants has types it accepts, and
from reset BANK.INIT of both banks and an append for each type build every such sequence. -/
theorem streamsHoldExactlyTheLanguage : Obligations.StreamsHoldExactlyTheLanguage := by
  refine ⟨fun s hs => ?_, fun ts hts hlen => ?_⟩
  · obtain ⟨hcount, -, -, haccepts, -⟩ := hs
    exact ⟨acceptsFrom_none_iff_language.mp haccepts, hcount ▸ Nat.le_of_lt_succ s.stream.count.isLt⟩
  · have hcan := canAppend_initialised (acceptsFrom_none_iff_language.mpr hts) hlen (appendInputs ts)
    obtain ⟨u, hrun, htypes⟩ := run_appendInputs hcan rfl
    refine ⟨inputOf (defaultInit .bank0) :: inputOf (defaultInit .bank1) :: appendInputs ts, u, ?_, htypes⟩
    simp only [List.length_cons, appendInputs, List.length_map]
    exact (run_resetWith_defaultInit ts.length _).trans hrun

end Sys2Proof.Machine

/-! PROOFS. The errors of the block (60_exceptions.md): their codes and the commands that raise them (R271), that they
write no block state (R272), and the idle step (R280). -/

namespace Sys2Proof.Machine

open Sys2Proof.Claims

/-! ### Errors write no block state (R272) -/

/-- A command that answers an error does nothing else: those that write a bank or the stream answer OK. -/
theorem exec_eq_answered_of_error {i : Instr} {s t : State} {e : Error} (h : exec i s = .next t)
    (he : t.response = some (.error e)) : t = answered s (.error e) := by
  rcases exec_next_cases h with ⟨r, rfl⟩ | ⟨b, v, -, -, rfl⟩ | ⟨-, rfl⟩ | ⟨-, ty, p, -, -, -, rfl⟩
  · cases he
    rfl
  · simp at he
  · simp at he
  · simp at he

/-- Settles O18, by the four things a step can be: an idle step keeps everything, also an old error, and a reset answers
nothing. -/
theorem errorsWriteNoState : Obligations.ErrorsWriteNoState := by
  intro s t e h he
  rcases step_cases s with ⟨hp, h'⟩ | ⟨rest, -, h'⟩ | ⟨c, rest, e', hp, -, h'⟩ | ⟨c, rest, i, hp, -, h'⟩ <;>
    rw [h'] at h
  · cases h
    simp [hp]
  · cases h
    simp at he
  · cases h
    simp [hp]
  · rw [exec_eq_answered_of_error h he]
    simp [hp]

/-! ### Which commands raise which errors (R271) -/

/-- APPEND raises only the three errors of R223, and every append command may answer each of them. -/
theorem raisedBy_of_append {i : Instr} (hi : isAppend i = true) {t : AtomType} {p : Bytes} {s : State} {e : Error}
    (he : (append t p s).response = some (.error e)) : raisedBy e i := by
  rcases append_cases t p s with ⟨-, h⟩ | ⟨-, -, h⟩ | ⟨-, -, -, h⟩ | ⟨-, -, -, h⟩ <;> rw [h] at he <;> cases he
  · exact hi
  · exact hi
  · exact .inl hi

theorem raisedBy_of_definitionFault {b : BankSel} {l : Bytes} {e : Error} (h : definitionFault b [] l = some e) :
    raisedBy e (.bankCheck b l) := by
  rcases definitionFault_eq_some h with ⟨i, rfl⟩ | ⟨i, lo, hi, rfl⟩ | ⟨i, rfl⟩ <;> exact ⟨b, l, rfl⟩

/-- Both string checks raise OVERSIZE_STRING. -/
theorem exists_oversizeString_of_vinfoFault {vendor product : Bytes} {e : Error}
    (h : vinfoFault vendor product = some e) : ∃ f n, e = .oversizeString f n := by
  rcases vinfoFault_eq_some h with ⟨-, he⟩ | ⟨-, -, he⟩ <;> exact ⟨_, _, he⟩

/-- Settles O22, command by command: the checks each makes before it answers OK. -/
theorem errorsAreRaisedByTheirCommandsOnly : Obligations.ErrorsAreRaisedByTheirCommandsOnly := by
  intro i s t e h he
  cases i with
  | pinPack | bankInit | crc16 | streamInit =>
    cases h
    cases he
  | bankSet b k f p u =>
    simp only [exec, execBankSet] at h
    split at h
    · split at h <;> cases h <;> cases he
      exact ⟨b, k, f, p, u, rfl⟩
    · cases h
      cases he
      exact .inl ⟨b, k, f, p, u, rfl⟩
  | bankEncode b =>
    simp only [exec, execBankEncode] at h
    split at h <;> cases h <;> cases he
    exact .inr (.inl ⟨b, rfl⟩)
  | bankCheck b l =>
    cases hfault : definitionFault b [] l with
    | none =>
      cases (exec_bankCheck_of_none hfault s).symm.trans h
      cases he
    | some e' =>
      cases (exec_bankCheck_of_some hfault s).symm.trans h
      cases he
      exact raisedBy_of_definitionFault hfault
  | atomFrame ty q p =>
    simp only [exec, execAtomFrame] at h
    split at h <;> cases h <;> cases he
    exact .inr ⟨ty, q, p, rfl⟩
  | vinfoFormat u a b v p =>
    simp only [exec, execVinfoFormat] at h
    split at h <;> cases h <;> cases he
    case h_1 hfault =>
      obtain ⟨f, n, rfl⟩ := exists_oversizeString_of_vinfoFault hfault
      exact .inl ⟨u, a, b, v, p, rfl⟩
  | streamAppendVinfo u a b v p =>
    simp only [exec, execStreamAppendVinfo] at h
    split at h <;> cases h
    case h_1 hfault =>
      cases he
      obtain ⟨f, n, rfl⟩ := exists_oversizeString_of_vinfoFault hfault
      exact .inr ⟨u, a, b, v, p, rfl⟩
    case h_2 => exact raisedBy_of_append rfl he
  | streamAppendGpio b =>
    simp only [exec, execStreamAppendGpio] at h
    split at h <;> cases h
    · exact raisedBy_of_append rfl he
    · cases he
      exact .inr (.inr ⟨b, rfl⟩)
  | streamAppendDtb | streamAppendCustom =>
    cases h
    exact raisedBy_of_append rfl he
  | streamSerialize =>
    rw [exec_streamSerialize] at h
    split at h <;> cases h
    cases he

/-! ### Status codes (R271) and the idle step (R280) -/

/-- The codes of the errors are 0x01 to 0x0B. -/
theorem status_bounds (e : Error) : 1 ≤ e.status.toNat ∧ e.status.toNat ≤ 0x0B := by
  cases e <;> simp [Error.status]

/-- Settles O23: the eleven codes are the table's rows, and no error has the code of OK. -/
theorem statusCodesAreTheSpecs : Obligations.StatusCodesAreTheSpecs := by
  refine ⟨fun _ _ => rfl, fun _ _ _ _ => rfl, fun _ => rfl, fun _ => rfl, fun _ _ _ => rfl, fun _ _ => rfl,
    fun _ => rfl, fun _ => rfl, fun _ => rfl, fun _ _ => rfl, fun _ => rfl, fun r => ?_⟩
  cases r with
  | ok v => exact ⟨Nat.zero_le _, fun _ => ⟨v, rfl⟩, fun _ => rfl⟩
  | error e =>
    obtain ⟨hpos, hmax⟩ := status_bounds e
    refine ⟨hmax, fun hzero => ?_, fun ⟨v, hv⟩ => by cases hv⟩
    have hstatus : e.status = 0x00#8 := hzero
    rw [hstatus] at hpos
    cases hpos

/-- Settles O12. -/
theorem idleStepKeepsState : Obligations.IdleStepKeepsState := fun _ hp => step_of_nil hp

end Sys2Proof.Machine

/-! PROOFS. The reset event (70_reset_and_hazards.md R300): the step that takes a reset completes, with both banks invalid
and the stream empty. -/

namespace Sys2Proof.Machine

/-- Settles O14: a step that takes a reset is `applyReset` (`step_of_reset`), which keeps only the inputs issued after
it. -/
theorem resetEventResetsTheBlock : Obligations.ResetEventResetsTheBlock := fun s rest hp =>
  ⟨State.applyReset { s with pending := rest }, step_of_reset hp, Bank.reset_valid 28, Bank.reset_valid 18,
    rfl, rfl, rfl⟩

end Sys2Proof.Machine
